-- ==== Sys2Proof/Word.lean ====
section
/-! DEFINITION. The engine's data types of fixed width and its byte strings (00_scope.md R8, R9). -/

namespace Sys2Proof

/-- A byte: 8 bits, bit 0 the least significant (R8). -/
abbrev Byte := BitVec 8

/-- A register value, a command word, a bus word or a SHA-256 word: 32 bits, unsigned (R9). -/
abbrev Word := BitVec 32

/-- A byte string: a finite sequence of bytes, index 0 first (R8). -/
abbrev Bytes := List Byte

/-- A 16-byte string: an AES block, an IV, a salt or a chaining value (R7, `BLOCK_BYTES`). -/
abbrev Block := Vector Byte 16

/-- A 32-byte string: a key or a key-slot value (R7, `KEY_BYTES`). -/
abbrev Key := Vector Byte 32

end Sys2Proof
end

