-- ==== Sys2Proof/Syntax.lean ====
section
/-! DEFINITION. The commands of the engine, one constructor per row of spec/opcode_table.json
(30_encoding.md R92). -/

namespace Sys2Proof

/-- A command form. `k` is the key slot the KS field names (R91); the operands SRC, DST, LEN and AUX
are not part of the word but of the latched command (R29, R93), so no constructor carries them. -/
inductive Instr where
  /-- 0x00, do nothing (R200). -/
  | nop
  /-- 0x01, derive a key into slot `k` (R121). -/
  | kdf (k : Fin 4)
  /-- 0x02, load slot `k` from scratch (R170). -/
  | keyload (k : Fin 4)
  /-- 0x03 with ALL = 0, erase slot `k` (R201). -/
  | keyzero (k : Fin 4)
  /-- 0x03 with ALL = 1, erase every slot (R201). -/
  | keyzeroAll
  /-- 0x04, load CHAIN from scratch (R171). -/
  | ivload
  /-- 0x05, store CHAIN to scratch (R172). -/
  | ivstore
  /-- 0x06, AES-256-CBC encrypt with slot `k` (R173). -/
  | aesenc (k : Fin 4)
  /-- 0x07, AES-256-CBC decrypt with slot `k` (R174). -/
  | aesdec (k : Fin 4)
  /-- 0x08, start an HMAC context keyed by slot `k` (R140). -/
  | hmacinit (k : Fin 4)
  /-- 0x09, append to the HMAC message (R141). -/
  | hmacupd
  /-- 0x0A, write the tag and end the context (R142). -/
  | hmacfin
  /-- 0x0B, compare two scratch regions (R143). -/
  | cmp
  /-- 0x0C, zero a scratch region (R202). -/
  | scrub
  /-- 0x0D, clear CHAIN and the HMAC context (R203). -/
  | ctxclear
  deriving DecidableEq, Repr

end Sys2Proof
end

