-- ==== Sys2Proof/WellFormed.lean ====
section
/-! DEFINITION. What a well-formed instruction is: the key slot it names is one of the four
(10_state.md R33). The legality of command WORDS (30_encoding.md R94) is `legal` of Decode.lean. -/

namespace Sys2Proof

/-- The key slot an instruction's word names, if its row uses KS (R92 "uses KS"). -/
def Instr.slot : Instr → Option (Fin 4)
  | .kdf k => some k
  | .keyload k => some k
  | .keyzero k => some k
  | .aesenc k => some k
  | .aesdec k => some k
  | .hmacinit k => some k
  | .nop => none
  | .keyzeroAll => none
  | .ivload => none
  | .ivstore => none
  | .hmacupd => none
  | .hmacfin => none
  | .cmp => none
  | .scrub => none
  | .ctxclear => none

/-- A raw slot number is one of the four: `0 <= k <= 3` (R33). -/
def slotOk (k : Nat) : Bool := decide (k < 4)

/-- A well-formed instruction: its slot, if any, is one of the four. The type of the slot already says
so (an ill-formed instruction cannot be built); `Laws/Encoding.lean` proves it once. -/
def Instr.wellFormed (i : Instr) : Bool := i.slot.all fun k => slotOk k.val

end Sys2Proof
end

