-- ==== Sys2Proof/Decode.lean ====
section
/-! DEFINITION. The command word: its fields, the legality check, the decoder and the encoder
(30_encoding.md R90 to R96, R100). -/

namespace Sys2Proof

/-! ## Fields (R90) -/

/-- The OPC field, bits [7:0] (R90). -/
def fieldOpc (w : Word) : Byte := w.extractLsb' 0 8

/-- The KS field, bits [9:8] (R90). -/
def fieldKs (w : Word) : BitVec 2 := w.extractLsb' 8 2

/-- The ALL field, bit [10] (R90). -/
def fieldAll (w : Word) : Bool := w.getLsbD 10

/-- The RSV field, bits [31:11] (R90). -/
def fieldRsv (w : Word) : BitVec 21 := w.extractLsb' 11 21

/-! ## Legality and decoding -/

/-- `legal(w)`, line for line (R94). The decoder does not call it: that the two agree is a statement
about the model. -/
def legal (w : Word) : Bool :=
  if fieldRsv w ≠ 0 then false
  else if (fieldOpc w).toNat > 0x0D then false
  else if fieldOpc w ∈ [0x01#8, 0x02#8, 0x06#8, 0x07#8, 0x08#8] then fieldAll w == false
  else if fieldOpc w = 0x03#8 then fieldAll w == false || fieldKs w == 0
  else fieldKs w == 0 && fieldAll w == false

/-- Why a word is illegal (R95, R316), or why a byte string is no command word (R96). -/
inductive Reject where
  /-- Bits [31:11] are not all 0. -/
  | reservedBits
  /-- Opcode 0x0E to 0xFF. -/
  | reservedOpcode
  /-- ALL = 1 on an opcode other than KEYZERO. -/
  | allNotAllowed
  /-- KS is not 0 where the opcode uses no slot, or beside ALL = 1 on KEYZERO. -/
  | slotNotAllowed
  /-- The bytes are not exactly the four of a command word. -/
  | notOneWord
  deriving DecidableEq, Repr

/-- A word of an opcode that uses KS and forbids ALL (R94, third line). -/
def decodeSlotted (w : Word) (i : Fin 4 → Instr) : Except Reject Instr :=
  if fieldAll w then .error .allNotAllowed else .ok (i (fieldKs w).toFin)

/-- A word of an opcode that uses neither KS nor ALL (R94, last line). -/
def decodePlain (w : Word) (i : Instr) : Except Reject Instr :=
  if fieldAll w then .error .allNotAllowed
  else if fieldKs w ≠ 0 then .error .slotNotAllowed
  else .ok i

/-- A word of opcode KEYZERO: ALL selects the form, and ALL = 1 needs KS = 0 (R94, R201). -/
def decodeKeyzero (w : Word) : Except Reject Instr :=
  if fieldAll w then (if fieldKs w ≠ 0 then .error .slotNotAllowed else .ok .keyzeroAll)
  else .ok (.keyzero (fieldKs w).toFin)

/-- The decoder: the instruction a command word stands for, or why it is illegal (R92, R95). -/
def decodeWord (w : Word) : Except Reject Instr :=
  if fieldRsv w ≠ 0 then .error .reservedBits
  else match (fieldOpc w).toNat with
    | 0x00 => decodePlain w .nop
    | 0x01 => decodeSlotted w .kdf
    | 0x02 => decodeSlotted w .keyload
    | 0x03 => decodeKeyzero w
    | 0x04 => decodePlain w .ivload
    | 0x05 => decodePlain w .ivstore
    | 0x06 => decodeSlotted w .aesenc
    | 0x07 => decodeSlotted w .aesdec
    | 0x08 => decodeSlotted w .hmacinit
    | 0x09 => decodePlain w .hmacupd
    | 0x0A => decodePlain w .hmacfin
    | 0x0B => decodePlain w .cmp
    | 0x0C => decodePlain w .scrub
    | 0x0D => decodePlain w .ctxclear
    | _ => .error .reservedOpcode

/-! ## Bytes: bus words are little-endian (20_memory.md R63) -/

/-- The 32-bit word whose bytes in increasing address order are `b0 b1 b2 b3` (R63). -/
def wordOfBytes (b0 b1 b2 b3 : Byte) : Word := b3 ++ b2 ++ b1 ++ b0

/-- The four bytes of a word in increasing address order (R63). -/
def bytesOfWord (w : Word) : Bytes :=
  [w.extractLsb' 0 8, w.extractLsb' 8 8, w.extractLsb' 16 8, w.extractLsb' 24 8]

/-- The decoder on any byte string. Every command is one 32-bit word (R96), so any other length is
refused. -/
def decode : Bytes → Except Reject Instr
  | [b0, b1, b2, b3] => decodeWord (wordOfBytes b0 b1 b2 b3)
  | _ => .error .notOneWord

/-! ## The encoder (R100) -/

/-- `OPC | KS << 8 | ALL << 10` (R100). -/
def commandWord (opc : Byte) (ks : Fin 4) (all : Bool) : Word :=
  BitVec.ofNat 32 (opc.toNat + 2 ^ 8 * ks.val + 2 ^ 10 * all.toNat)

/-- The command word of an instruction (R92, R100). -/
def encode : Instr → Word
  | .nop => commandWord 0x00 0 false
  | .kdf k => commandWord 0x01 k false
  | .keyload k => commandWord 0x02 k false
  | .keyzero k => commandWord 0x03 k false
  | .keyzeroAll => commandWord 0x03 0 true
  | .ivload => commandWord 0x04 0 false
  | .ivstore => commandWord 0x05 0 false
  | .aesenc k => commandWord 0x06 k false
  | .aesdec k => commandWord 0x07 k false
  | .hmacinit k => commandWord 0x08 k false
  | .hmacupd => commandWord 0x09 0 false
  | .hmacfin => commandWord 0x0A 0 false
  | .cmp => commandWord 0x0B 0 false
  | .scrub => commandWord 0x0C 0 false
  | .ctxclear => commandWord 0x0D 0 false

/-! ## The match and mask table (R92) -/

/-- One row of R92's match and mask table: `w` is the form when `w & mask = match`. -/
structure FormRow where
  form : Fin 4 → Instr
  matchValue : Word
  mask : Word

/-- R92's match and mask table, in its order. A row whose mask leaves no KS bits free ignores the
slot its `form` is given. -/
def formTable : List FormRow :=
  [ ⟨fun _ => .nop,        0x00000000, 0xFFFFFFFF⟩,
    ⟨.kdf,                 0x00000001, 0xFFFFFCFF⟩,
    ⟨.keyload,             0x00000002, 0xFFFFFCFF⟩,
    ⟨.keyzero,             0x00000003, 0xFFFFFCFF⟩,
    ⟨fun _ => .keyzeroAll, 0x00000403, 0xFFFFFFFF⟩,
    ⟨fun _ => .ivload,     0x00000004, 0xFFFFFFFF⟩,
    ⟨fun _ => .ivstore,    0x00000005, 0xFFFFFFFF⟩,
    ⟨.aesenc,              0x00000006, 0xFFFFFCFF⟩,
    ⟨.aesdec,              0x00000007, 0xFFFFFCFF⟩,
    ⟨.hmacinit,            0x00000008, 0xFFFFFCFF⟩ ] ++
  [ ⟨fun _ => .hmacupd,    0x00000009, 0xFFFFFFFF⟩,
    ⟨fun _ => .hmacfin,    0x0000000A, 0xFFFFFFFF⟩,
    ⟨fun _ => .cmp,        0x0000000B, 0xFFFFFFFF⟩,
    ⟨fun _ => .scrub,      0x0000000C, 0xFFFFFFFF⟩,
    ⟨fun _ => .ctxclear,   0x0000000D, 0xFFFFFFFF⟩ ]

/-- `w` matches the row (R92). -/
def FormRow.matches (r : FormRow) (w : Word) : Bool := w &&& r.mask == r.matchValue

/-! ## The host's numbering of spec/opcode_table.json -/

/-- The instruction the decoder reads from the table's word `w` of `nbits` bits, bit 0 the least
significant: the word laid out in bytes as the bus stores it (R63) and given to `decode`. -/
def decodeTableWord (nbits w : Nat) : Option Instr :=
  match decode (bytesOfWord (BitVec.ofNat 32 (w % 2 ^ nbits))) with
  | .ok i => some i
  | .error _ => none

end Sys2Proof
end

