-- ==== Sys2Proof/Config.lean ====
section
/-! DEFINITION. What an implementation fixes: the parameters of 00_scope.md R7, the constants of the
same table, and the values the spec leaves open (93_implementation_defined.md U1, U2, U3) as
constants with no body. -/

namespace Sys2Proof

/-- The parameters of one engine (R7, U3, U4). Both fields are indices into the values the spec
allows, so that every term stands for a legal engine:
`logExtra` is `log2(SCRATCH_BYTES) - 10` (a power of two from 1024 to 2^20), and
`baseIndex` counts multiples of the alignment that R61 asks of `ENGINE_BASE`. -/
structure Params where
  logExtra  : Fin 11
  baseIndex : Nat
  deriving DecidableEq, Repr

/-- `log2(SCRATCH_BYTES)`, 10 to 20 (R23 LOG2_SCRATCH). -/
def Params.logScratch (p : Params) : Nat := 10 + p.logExtra.val

/-- `SCRATCH_BYTES` (R7). -/
def Params.scratchBytes (p : Params) : Nat := 2 ^ p.logScratch

/-- Bytes in the bus window: the register window and the scratch window (R61). -/
def Params.windowBytes (p : Params) : Nat := 0x1000 + p.scratchBytes

/-- `0x1000 + SCRATCH_BYTES` rounded up to a power of two, the alignment of `ENGINE_BASE` (R61). -/
def Params.windowAlign (p : Params) : Nat := 2 ^ (Nat.max 12 p.logScratch + 1)

/-- `ENGINE_BASE`, the bus address of the register window (R61, U3). -/
def Params.engineBase (p : Params) : Nat := p.baseIndex * p.windowAlign

namespace Config

/-- R7 `NUM_KEY_SLOTS`. -/
def numKeySlots : Nat := 4

/-- R7 `KDF_ROUNDS`. -/
def kdfRounds : Nat := 8192

/-- R7 `HMAC_MAX_MSG`, in bytes. -/
def hmacMaxMsg : Nat := 2 ^ 61 - 65

/-- R7, R221 `FORMAT_VERSION` (host protocol). -/
def formatVersion : Byte := 0x02

/-- The platform's choice of `ENGINE_BASE`, as an index (U3, D2: OPEN). A free value: nothing
constrains it (log entry 2). -/
opaque freeBaseIndex : Nat

/-- The value of the `n`-th host read of scratch while BUSY = 1 (R66, U1: "any value, freshly drawn
per read"). A free value: nothing constrains it (log entry 3). DESIGN CHOICE: every engine draws from this one
function, so the `n`-th draws of two engines are equal, which R66 and R76 do not say (log entry 3). -/
opaque freeScratchRead : Nat → Word

/-- `MAX_LATENCY` of a command with this opcode, LEN and HMAC message length (R354, D26: OPEN). A free
value (log entry 4). -/
opaque freeMaxLatency : Byte → Word → Nat → Nat

/-- The `n`-th draw of the number of steps between acceptance and completion, before it is brought
under `MAX_LATENCY`. It has no argument but the draw's number, the opcode, LEN and the HMAC message
length, which is R356. A free value (log entry 4). DESIGN CHOICE: every engine draws from this one function,
so two engines' `n`-th draws with equal arguments are equal (log entry 4). -/
opaque freeLatency : Nat → Byte → Word → Nat → Nat

end Config

/-- The default parameters: `SCRATCH_BYTES = 4096` (R7), `ENGINE_BASE` free. -/
def Params.default : Params := ⟨2, Config.freeBaseIndex⟩

end Sys2Proof
end

