-- ==== Sys2Proof/Machine/State.lean ====
section
/-! DEFINITION. The machine's state: the engine's record of 10_state.md R20, field for field, and
beside it what the model needs to run it: the parameters, the host's pending bus events, the last
bus response, the reset input's level and the counters of the free values. -/

namespace Sys2Proof.Machine

/-! ## The pieces of R20's record -/

/-- The scratch memory `SCR` (R36): the bytes that differ from 0x00, by rising offset. An offset that is
not listed reads 0x00, the reset contents the spec gives (R36, R41). `Machine/Memory.lean` reads and
writes it. -/
abbrev Memory := List Host.Cell

/-- CTRL's three fields (R24). CTRL[30:3] is stuck at 0 and SOFT_RESET reads 0 (U10, U11), so the
fields are the whole register. -/
structure Ctrl where
  ieDone : Bool
  ieErr : Bool
  ieOvr : Bool
  deriving DecidableEq, Repr

/-- STATUS's stored flags (R20, R26). HMAC_ACTIVE, IV_VALID and KEY_VALID are views of HCTX, CHAIN and
KS, and the reserved bits are stuck at 0 (U10). -/
structure Status where
  busy : Bool
  done : Bool
  err : Bool
  ovr : Bool
  matched : Bool
  errcode : Byte
  deriving DecidableEq, Repr

/-- A key slot (R33). -/
structure KeySlot where
  value : Key
  valid : Bool
  deriving DecidableEq, Repr

/-- The chain register CHAIN (R34). -/
structure Chain where
  value : Block
  valid : Bool
  deriving DecidableEq, Repr

/-- The HMAC context HCTX (R35): the key copied at HMACINIT and every message byte since. -/
inductive Hctx where
  | none
  | active (key : Key) (msg : Bytes)
  deriving DecidableEq, Repr

/-- A latched command CUR (R29, R37). -/
structure Latched where
  word : Word
  src : Word
  dst : Word
  len : Word
  aux : Word
  deriving DecidableEq, Repr

/-- R41's "CUR none (BUSY = 0)": CUR has no meaning while BUSY = 0 (R20), so the model gives it this
one value then (log entry 5). -/
def Latched.none : Latched := ⟨0, 0, 0, 0, 0⟩

/-- The causes of a command error (R311). `CmdError.code` of Machine/Flags.lean gives their numbers. -/
inductive CmdError where
  | illegalCmd
  | badRange
  | badLength
  | keyNotLoaded
  | ivNotLoaded
  | noHmacContext
  | hmacLengthOverflow
  deriving DecidableEq, Repr

/-- The engine's state, "exactly the following record" (R20), in R20's order. -/
structure Engine where
  ctrl : Ctrl
  status : Status
  cmd : Word
  src : Word
  dst : Word
  len : Word
  aux : Word
  ks : Vector KeySlot 4
  chain : Chain
  hctx : Hctx
  scr : Memory
  cur : Latched
  deriving DecidableEq, Repr

/-- A key slot after reset or KEYZERO: `0^32`, invalid (R33, R201). -/
def KeySlot.cleared : KeySlot := ⟨Vector.replicate 32 0, false⟩

/-- CHAIN after reset or CTXCLEAR: `0^16`, invalid (R34, R203). -/
def Chain.cleared : Chain := ⟨Vector.replicate 16 0, false⟩

/-- The engine after either reset (R41, R341). -/
def Engine.reset : Engine where
  ctrl := ⟨false, false, false⟩
  status := ⟨false, false, false, false, false, 0x00⟩
  cmd := 0
  src := 0
  dst := 0
  len := 0
  aux := 0
  ks := Vector.replicate 4 KeySlot.cleared
  chain := Chain.cleared
  hctx := .none
  scr := []
  cur := Latched.none

/-! ## The outside world -/

/-- The width of a bus access (R62). -/
inductive Width where
  | w8
  | w16
  | w32
  | w64
  deriving DecidableEq, Repr

/-- One host bus access at a bus address (R60, R61). A write of a width other than 32 bits never has an
effect (R62), so its value beyond a word is not kept. -/
inductive Access where
  | read (width : Width) (addr : Nat)
  | write (width : Width) (addr : Nat) (value : Word)
  deriving DecidableEq, Repr

/-- What the bus answers to an access. -/
inductive Response where
  /-- A read's 32-bit value. -/
  | data (value : Word)
  /-- A write was taken: it had its effect, was ignored, or was dropped (R317). -/
  | ack
  /-- The bus error response of R62 and R319. -/
  | busError
  /-- The address is outside the window, so the access is not routed to the engine (R61). -/
  | notRouted
  /-- The reset input is asserted, so the access is not accepted (R340). -/
  | notAccepted
  deriving DecidableEq, Repr

/-- One event of the outside world (R357): a bus access, a change of the reset input's level (R340), or a
step in which the host does nothing. -/
inductive Event where
  | access (a : Access)
  | resetInput (asserted : Bool)
  | idle
  deriving DecidableEq, Repr

/-! ## The state -/

/-- The machine's state. `engine` is R20's record; the other fields are not engine state:
`params` are R7's parameters, which no step changes;
`resetHeld` is the level of the reset input (R340);
`delay` is how many more steps pass before the command in flight completes (R354);
`latencyDraws` and `readDraws` count the free values drawn so far (U2, U1);
`queue` holds the host's events not yet served, the next one first (R70);
`response` is the answer to the last bus access served. -/
structure State where
  params : Params
  engine : Engine
  resetHeld : Bool
  delay : Nat
  latencyDraws : Nat
  readDraws : Nat
  queue : List Event
  response : Option Response
  deriving DecidableEq, Repr

/-- A machine right after reset with the given parameters (R41, R341, R345). -/
def State.resetWith (p : Params) : State where
  params := p
  engine := Engine.reset
  resetHeld := false
  delay := 0
  latencyDraws := 0
  readDraws := 0
  queue := []
  response := Option.none

/-- The machine right after reset, with the default parameters (R7, R41). -/
def State.reset : State := State.resetWith Params.default

/-- Why the machine stops. No behaviour of the spec stops the engine: command errors (R312), dropped
accesses (R317) and bus errors (R319) all go on. So no constructor, and no step faults. -/
inductive Fault where
  deriving DecidableEq, Repr

/-- Why the model gives no meaning. -/
inductive Refusal where
  /-- Raised by `exec` for an instruction whose meaning is not written yet; safe, since no next state is
  claimed. No arm of `exec` raises it. -/
  | notModelled (mnemonic : String)
  deriving DecidableEq, Repr

end Sys2Proof.Machine
end

