-- ==== Sys2Proof/Machine/Flags.lean ====
section
/-! DEFINITION. The numbers a register read shows: error codes (60_exceptions.md R311), STATUS and its
views (10_state.md R26), CTRL (R24, R25), ID (R22), PARAM (R23), and the interrupt line (R40). -/

namespace Sys2Proof.Machine

/-- The code ERRCODE shows (R311). 0x00 means no error, and 0x08 to 0xFF are never produced. -/
def CmdError.code : CmdError → Byte
  | .illegalCmd => 0x01
  | .badRange => 0x02
  | .badLength => 0x03
  | .keyNotLoaded => 0x04
  | .ivNotLoaded => 0x05
  | .noHmacContext => 0x06
  | .hmacLengthOverflow => 0x07

/-- One bit as a 1-bit field. -/
def bit (b : Bool) : BitVec 1 := BitVec.ofBool b

/-- HCTX is ACTIVE: the view HMAC_ACTIVE (R26, R35). -/
def Hctx.isActive : Hctx → Bool
  | .none => false
  | .active _ _ => true

/-- `|msg|` of the context, 0 with no context (R35). -/
def Hctx.msgLength : Hctx → Nat
  | .none => 0
  | .active _ msg => msg.length

/-- The view KEY_VALID: bit `k` is `KS[k].valid` (R26). -/
def keyValidBits (ks : Vector KeySlot 4) : BitVec 4 :=
  bit ks[3].valid ++ bit ks[2].valid ++ bit ks[1].valid ++ bit ks[0].valid

/-- What a read of STATUS returns, from bit 31 down to bit 0 (R26). -/
def statusWord (e : Engine) : Word :=
  0#12 ++ keyValidBits e.ks ++ e.status.errcode ++ 0#1 ++ bit e.chain.valid ++ bit e.hctx.isActive ++
    bit e.status.matched ++ bit e.status.ovr ++ bit e.status.err ++ bit e.status.done ++ bit e.status.busy

/-- What a read of CTRL returns: the three enables, 0 elsewhere (R25). -/
def ctrlWord (c : Ctrl) : Word := 0#29 ++ bit c.ieOvr ++ bit c.ieErr ++ bit c.ieDone

/-- What a read of ID returns (R22). -/
def idWord : Word := 0x02534541

/-- What a read of PARAM returns: LOG2_SCRATCH in [4:0], NUM_KEY_SLOTS in [11:8], KDF_ROUNDS in [31:16]
and 0 elsewhere (R23). -/
def paramWord (p : Params) : Word :=
  BitVec.ofNat 16 Config.kdfRounds ++ 0#4 ++ BitVec.ofNat 4 Config.numKeySlots ++ 0#3 ++
    BitVec.ofNat 5 p.logScratch

/-- The interrupt output `IRQ`, a function of the state (R40, R318). -/
def irq (e : Engine) : Bool :=
  (e.status.done && e.ctrl.ieDone) || (e.status.err && e.ctrl.ieErr) || (e.status.ovr && e.ctrl.ieOvr)

end Sys2Proof.Machine
end

