-- ==== Sys2Proof/Machine/Memory.lean ====
section
/-! DEFINITION. The named operations over the scratch memory `SCR`: one byte, `MemRead` and `MemWrite`
(00_scope.md R10, 10_state.md R36, 20_memory.md R67), and the canonical form that each of them keeps. -/

namespace Sys2Proof.Machine

/-- What a scratch byte reads as when nothing has written it since reset: "every byte 0x00" (R36, R41). -/
def Memory.unlisted : Byte := 0x00

/-- `SCR[a]` (R36). -/
def Memory.read : Memory → Nat → Byte
  | [], _ => Memory.unlisted
  | c :: m, a => if c.1 = a then c.2 else Memory.read m a

/-- Put a byte at the head of a memory, or leave it unlisted if that is what it reads as. -/
def Memory.consByte (a : Nat) (v : Byte) (m : Memory) : Memory :=
  if v = Memory.unlisted then m else (a, v) :: m

/-- `SCR[a] <- v` (R10), keeping the canonical form. -/
def Memory.write : Memory → Nat → Byte → Memory
  | [], a, v => Memory.consByte a v []
  | c :: m, a, v =>
    if a < c.1 then Memory.consByte a v (c :: m)
    else if a = c.1 then Memory.consByte a v m
    else c :: Memory.write m a v

/-- `MemRead(a, n)`: the byte string `SCR[a : a+n)` (R10), in increasing offset order (R67). -/
def Memory.readBytes (m : Memory) (a n : Nat) : Bytes := (List.range n).map fun i => m.read (a + i)

/-- `MemRead(a, n)` as a byte string whose length is its type. -/
def Memory.readVec (m : Memory) (a n : Nat) : Vector Byte n := Vector.ofFn fun i => m.read (a + i.val)

/-- `MemWrite(a, |v|, v)`: `SCR[a+i] <- v[i]` (R10), for `i` increasing (R73). -/
def Memory.writeBytes : Memory → Nat → Bytes → Memory
  | m, _, [] => m
  | m, a, v :: vs => Memory.writeBytes (m.write a v) (a + 1) vs

/-- The canonical form: offsets strictly rising, and no entry equal to what an unlisted offset reads as.
Equal memories are then equal data. -/
def Memory.wf : Memory → Bool
  | [] => true
  | c :: m => c.2 != Memory.unlisted && m.all (fun d => decide (c.1 < d.1)) && Memory.wf m

/-- Every listed offset is inside a scratch of `n` bytes (R36). -/
def Memory.inside (n : Nat) (m : Memory) : Bool := m.all fun c => decide (c.1 < n)

end Sys2Proof.Machine
end

