-- ==== Sys2Proof/Machine/Ops.lean ====
section
/-! DEFINITION. The shared operations on the engine: acceptance (10_state.md R29), completion (R37), taking
a command error (60_exceptions.md R312) and returning from one (R321), dropping an access (R317), reset
(70_reset_and_hazards.md R341), and the writes to key slots, CHAIN, HCTX, MATCH and scratch that the
commands make. -/

namespace Sys2Proof.Machine

/-! ## What a command writes -/

/-- `KS[k] <- x` (R33). -/
def Engine.setSlot (e : Engine) (k : Fin 4) (x : KeySlot) : Engine := { e with ks := e.ks.set k x }

/-- `KS[k].value <- v; KS[k].valid <- 1` (R121, R170). -/
def Engine.loadKey (e : Engine) (k : Fin 4) (v : Key) : Engine := e.setSlot k ⟨v, true⟩

/-- `KS[k].value <- 0^32; KS[k].valid <- 0` (R201). -/
def Engine.clearKey (e : Engine) (k : Fin 4) : Engine := e.setSlot k KeySlot.cleared

/-- Every key slot cleared, for `j in 0..3` (R201). -/
def Engine.clearAllKeys (e : Engine) : Engine := { e with ks := Vector.replicate 4 KeySlot.cleared }

/-- CHAIN becomes `c` (R34). -/
def Engine.setChain (e : Engine) (c : Chain) : Engine := { e with chain := c }

/-- `HCTX <- h` (R35). -/
def Engine.setHctx (e : Engine) (h : Hctx) : Engine := { e with hctx := h }

/-- `MATCH <- b` (R143). -/
def Engine.setMatch (e : Engine) (b : Bool) : Engine := { e with status := { e.status with matched := b } }

/-- SCR becomes `m` (R36). -/
def Engine.setScr (e : Engine) (m : Memory) : Engine := { e with scr := m }

/-- `MemWrite(off, |v|, v)` (R10). -/
def Engine.memWrite (e : Engine) (off : Nat) (v : Bytes) : Engine := e.setScr (e.scr.writeBytes off v)

/-! ## Completion: success, or taking a command error -/

/-- Successful completion: `DONE <- 1; BUSY <- 0` (R37). CUR loses its meaning with BUSY (R20). -/
def Engine.succeed (e : Engine) : Engine :=
  { e with status := { e.status with done := true, busy := false }, cur := Latched.none }

/-- Taking a command error, the engine's one exception: `ERR <- 1; ERRCODE <- c; BUSY <- 0` and nothing
else (R312). CUR loses its meaning with BUSY (R20). -/
def Engine.cmdError (e : Engine) (c : CmdError) : Engine :=
  { e with status := { e.status with err := true, errcode := c.code, busy := false }, cur := Latched.none }

/-- Returning from a command error: the host's CLRERR, `ERR <- 0; ERRCODE <- 0` (R27, R321). -/
def Engine.clearError (e : Engine) : Engine :=
  { e with status := { e.status with err := false, errcode := 0x00 } }

/-- `if not b: raise CmdError(c)` (R10). -/
def require (b : Bool) (c : CmdError) : Except CmdError Unit := if b then .ok () else .error c

/-- The completion step of a command whose pseudocode leaves the engine as `r` says, or raises (R37,
R320): one atomic step with its full effect or none. -/
def complete (s : State) (r : Except CmdError Engine) : Host.Outcome State Fault Refusal :=
  match r with
  | .ok e => .next { s with engine := e.succeed }
  | .error c => .next { s with engine := s.engine.cmdError c }

/-! ## Acceptance, dropped accesses and reset -/

/-- Acceptance of `w`: `CMD <- w; CUR <- (w, SRC, DST, LEN, AUX); DONE <- 0; MATCH <- 0; BUSY <- 1` (R29). -/
def Engine.accept (e : Engine) (w : Word) : Engine :=
  { e with
    cmd := w
    cur := ⟨w, e.src, e.dst, e.len, e.aux⟩
    status := { e.status with done := false, matched := false, busy := true } }

/-- The steps that pass between the acceptance of `w` and its completion: finite and unspecified (R354),
and a function of the draw's number, the opcode, LEN and the HMAC message length only (R356). -/
def drawLatency (s : State) (w : Word) : Nat :=
  Config.freeLatency s.latencyDraws (fieldOpc w) s.engine.len s.engine.hctx.msgLength %
    (Config.freeMaxLatency (fieldOpc w) s.engine.len s.engine.hctx.msgLength + 1)

/-- The whole machine after acceptance of `w` (R29, R354). -/
def State.acceptCommand (s : State) (w : Word) : State :=
  { s with engine := s.engine.accept w, delay := drawLatency s w, latencyDraws := s.latencyDraws + 1 }

/-- The machine with `w` latched and due at the very next step: an acceptance with latency 0. -/
def State.latchDue (s : State) (w : Word) : State :=
  { s with engine := s.engine.accept w, delay := 0 }

/-- `OVR <- 1`, the whole effect of a dropped access (R317). -/
def State.drop (s : State) : State :=
  { s with engine := { s.engine with status := { s.engine.status with ovr := true } } }

/-- The reset step: every state element takes the value of R41, and a command in flight is abandoned
(R341, R343). -/
def State.resetEngine (s : State) : State := { s with engine := Engine.reset, delay := 0 }

end Sys2Proof.Machine
end

