-- ==== Sys2Proof/Machine/Bus.lean ====
section
/-! DEFINITION. The host's side of the engine: the register window (10_state.md R22 to R32), the scratch
window (20_memory.md R60 to R66), the bus error (60_exceptions.md R319), the reset input
(70_reset_and_hazards.md R340), and the events that reach them. -/

namespace Sys2Proof.Machine

/-- A register of the register window (10_state.md section 3). -/
inductive Reg where
  | id
  | param
  | ctrl
  | status
  | cmd
  | src
  | dst
  | len
  | aux
  deriving DecidableEq, Repr

/-- The byte offset of a register from `ENGINE_BASE` (10_state.md section 3). -/
def Reg.offset : Reg → Nat
  | .id => 0x000
  | .param => 0x004
  | .ctrl => 0x008
  | .status => 0x00C
  | .cmd => 0x010
  | .src => 0x014
  | .dst => 0x018
  | .len => 0x01C
  | .aux => 0x020

/-- The register at an offset of the register window; none at the reserved offsets 0x024 to 0xFFC (R32). -/
def regAt : Nat → Option Reg
  | 0x000 => some .id
  | 0x004 => some .param
  | 0x008 => some .ctrl
  | 0x00C => some .status
  | 0x010 => some .cmd
  | 0x014 => some .src
  | 0x018 => some .dst
  | 0x01C => some .len
  | 0x020 => some .aux
  | _ => none

/-- The offset of scratch byte 0 in the bus window (R61). -/
def scratchWindow : Nat := 0x1000

/-! ## Reads (R69: no side effects on the engine) -/

/-- What a read of a register returns (R22 to R30). -/
def readReg (p : Params) (e : Engine) : Reg → Word
  | .id => idWord
  | .param => paramWord p
  | .ctrl => ctrlWord e.ctrl
  | .status => statusWord e
  | .cmd => e.cmd
  | .src => e.src
  | .dst => e.dst
  | .len => e.len
  | .aux => e.aux

/-- The word at scratch offset `a`, little-endian (R63). -/
def scratchWord (m : Memory) (a : Nat) : Word :=
  wordOfBytes (m.read a) (m.read (a + 1)) (m.read (a + 2)) (m.read (a + 3))

/-- The response field set to `r`. -/
def State.respond (s : State) (r : Response) : State := { s with response := some r }

/-- An aligned 32-bit read at an offset inside the bus window (R32, R63, R64, R66). DESIGN CHOICE: the value of
a scratch read while BUSY = 1 is the free function at this engine's own counter, so the `n`-th such reads of
two engines are equal; R66 and R76 leave open how they relate (log entry 3). -/
def readWindow (off : Nat) (s : State) : State :=
  if off < scratchWindow then
    match regAt off with
    | some r => s.respond (.data (readReg s.params s.engine r))
    | none => s.respond (.data 0)
  else if s.engine.status.busy then
    { s.respond (.data (Config.freeScratchRead s.readDraws)) with readDraws := s.readDraws + 1 }
  else
    s.respond (.data (scratchWord s.engine.scr (off - scratchWindow)))

/-! ## Writes -/

/-- A write to CTRL (R25): bit 31 resets and discards the rest, otherwise the enables are set. -/
def writeCtrl (v : Word) (s : State) : State :=
  if v.getLsbD 31 then s.resetEngine
  else { s with engine := { s.engine with ctrl := ⟨v.getLsbD 0, v.getLsbD 1, v.getLsbD 2⟩ } }

/-- `if b: DONE <- 0` (R27). -/
def Engine.clearDone (e : Engine) : Engine := { e with status := { e.status with done := false } }

/-- `if b: OVR <- 0` (R27). -/
def Engine.clearOvr (e : Engine) : Engine := { e with status := { e.status with ovr := false } }

/-- A write to STATUS: write-1-to-clear of DONE, ERR with ERRCODE, and OVR (R27, R321). -/
def writeStatus (v : Word) (s : State) : State :=
  let e := s.engine
  let e := if v.getLsbD 1 then e.clearDone else e
  let e := if v.getLsbD 2 then e.clearError else e
  let e := if v.getLsbD 3 then e.clearOvr else e
  { s with engine := e }

/-- A write to CMD: accepted when `BUSY = 0` and `ERR = 0`, dropped otherwise (R28, R29). -/
def writeCmd (w : Word) (s : State) : State :=
  if s.engine.status.busy || s.engine.status.err then s.drop else s.acceptCommand w

/-- A write to an operand register by `set`: dropped while `BUSY = 1` (R30, R31). -/
def writeOperand (set : Engine → Engine) (s : State) : State :=
  if s.engine.status.busy then s.drop else { s with engine := set s.engine }

/-- A write of `v` to a register (R22 to R31). -/
def writeReg (r : Reg) (v : Word) (s : State) : State :=
  match r with
  | .id => s
  | .param => s
  | .ctrl => writeCtrl v s
  | .status => writeStatus v s
  | .cmd => writeCmd v s
  | .src => writeOperand (fun e => { e with src := v }) s
  | .dst => writeOperand (fun e => { e with dst := v }) s
  | .len => writeOperand (fun e => { e with len := v }) s
  | .aux => writeOperand (fun e => { e with aux := v }) s

/-- A write of `v` at scratch offset `a`, little-endian: dropped while `BUSY = 1` (R63 to R65). -/
def writeScratch (a : Nat) (v : Word) (s : State) : State :=
  if s.engine.status.busy then s.drop
  else { s with engine := s.engine.memWrite a (bytesOfWord v) }

/-- An aligned 32-bit write at an offset inside the bus window (R32, R61). -/
def writeWindow (off : Nat) (v : Word) (s : State) : State :=
  if off < scratchWindow then
    match regAt off with
    | some r => writeReg r v s
    | none => s
  else writeScratch (off - scratchWindow) v s

/-! ## Accesses and events -/

/-- The address of an access. -/
def Access.addr : Access → Nat
  | .read _ a => a
  | .write _ a _ => a

/-- The width of an access. -/
def Access.width : Access → Width
  | .read w _ => w
  | .write w _ _ => w

/-- The engine answers an access of this width at this offset: 32 bits at a multiple of 4 (R62). -/
def accessOk (w : Width) (off : Nat) : Bool := w == .w32 && off % 4 == 0

/-- The bus address is inside the engine's window (R61). -/
def State.inWindow (s : State) (addr : Nat) : Bool :=
  decide (s.params.engineBase ≤ addr) && decide (addr < s.params.engineBase + s.params.windowBytes)

/-- One host bus access (R61, R62, R319, R340): not accepted while the reset input is asserted, not routed
outside the window, a bus error when misshapen, and otherwise a read or a write of the window. -/
def busAccess (a : Access) (s : State) : State :=
  if s.resetHeld then s.respond .notAccepted
  else if !s.inWindow a.addr then s.respond .notRouted
  else if !accessOk a.width (a.addr - s.params.engineBase) then s.respond .busError
  else match a with
    | .read _ addr => readWindow (addr - s.params.engineBase) s
    | .write _ addr v => (writeWindow (addr - s.params.engineBase) v s).respond .ack

/-- The reset input changes level (R340, R341): the reset is in force from its assertion to its release. -/
def resetInput (asserted : Bool) (s : State) : State :=
  if asserted then { s.resetEngine with resetHeld := true } else { s with resetHeld := false }

/-- One event of the outside world (R357). -/
def applyEvent (ev : Event) (s : State) : State :=
  match ev with
  | .access a => busAccess a s
  | .resetInput b => resetInput b s
  | .idle => s

/-- One step passes for a command in flight (R354). -/
def State.tick (s : State) : State :=
  if s.engine.status.busy then { s with delay := s.delay - 1 } else s

/-- A step in which no command completes: the next event of the host, if there is one (R70, R357). -/
def hostStep (s : State) : State :=
  match s.queue with
  | [] => s.tick
  | ev :: rest => applyEvent ev { s.tick with queue := rest }

end Sys2Proof.Machine
end

