-- ==== Sys2Proof/Machine/Bytes.lean ====
section
/-! DEFINITION. The byte-string helpers of 00_scope.md R8 and R9: number encodings, `xor` and the
passage between byte strings and strings whose length is their type. -/

namespace Sys2Proof.Machine

/-- `rep(n, b)`: the string of `n` copies of byte `b` (R8). -/
def rep (n : Nat) (b : Byte) : Bytes := List.replicate n b

/-- `0^n` (R8). -/
def zeros (n : Nat) : Bytes := rep n 0x00

/-- `s[a : b)` (R8). -/
def slice (s : Bytes) (a b : Nat) : Bytes := (s.drop a).take (b - a)

/-- Byte `i` of a number, byte 0 the least significant. -/
def byteOfNat (n i : Nat) : Byte := BitVec.ofNat 8 (n / 256 ^ i)

/-- The `k`-byte big-endian encoding of `n` (R9 `be16`, `be32`, `be64`). -/
def beBytes (k n : Nat) : Bytes := (List.range k).map fun i => byteOfNat n (k - 1 - i)

/-- The `k`-byte little-endian encoding of `n` (R9 `le16`, `le32`). -/
def leBytes (k n : Nat) : Bytes := (List.range k).map fun i => byteOfNat n i

/-- `be16` (R9). -/
def be16 (n : Nat) : Bytes := beBytes 2 n

/-- `le16` of a 16-bit code unit (R9, R122). -/
def le16 (u : BitVec 16) : Bytes := leBytes 2 u.toNat

/-- `be64` (R9). -/
def be64 (n : Nat) : Bytes := beBytes 8 n

/-- `be32` of a 32-bit word (R9). -/
def be32 (w : Word) : Bytes :=
  [w.extractLsb' 24 8, w.extractLsb' 16 8, w.extractLsb' 8 8, w.extractLsb' 0 8]

/-- `be32-decode` of four bytes, the first the most significant (R12). -/
def be32Decode (b0 b1 b2 b3 : Byte) : Word := b0 ++ b1 ++ b2 ++ b3

/-- Bytewise `xor` of two strings of equal length (R8). -/
def xorBytes (a b : Bytes) : Bytes := List.zipWith (· ^^^ ·) a b

/-- Bytewise `xor` of two strings of one length (R8). -/
def xorVec (a b : Vector Byte n) : Vector Byte n := Vector.zipWith (· ^^^ ·) a b

/-- A byte string as a string of length `n`; only called where its length is `n`. -/
def toVec (n : Nat) (s : Bytes) : Vector Byte n := Vector.ofFn fun i => s.getD i.val 0

/-- `ct_eq(a, b)`: whether two strings of equal length agree at every index (R15). That its time depends
on the length only is R356, which `Machine/Ops.lean` `drawLatency` states. -/
def ctEq (a b : Bytes) : Bool := (List.zipWith (· == ·) a b).all id

end Sys2Proof.Machine
end

