-- ==== Sys2Proof/Machine/Aes.lean ====
section
/-! DEFINITION. AES-256 (00_scope.md R13) and its CBC mode without padding (R16). -/

namespace Sys2Proof.Machine

/-! ## GF(2^8) -/

/-- `xtime(a)` (R13). -/
def xtime (a : Byte) : Byte := (a <<< 1) ^^^ (if a.getLsbD 7 then 0x1B else 0x00)

/-- `x^i a` in GF(2^8). -/
def xtimes : Nat → Byte → Byte
  | 0, a => a
  | i + 1, a => xtime (xtimes i a)

/-- `gmul(a, b)`, the product in GF(2^8) (R13): the sum of `x^i a` over the bits `i` of `b`. -/
def gmul (a b : Byte) : Byte :=
  ((List.range 8).map fun i => if b.getLsbD i then xtimes i a else 0x00).foldl (· ^^^ ·) 0x00

/-! ## The S-boxes -/

/-- The S-box `S` by rows of the high nibble (R13). -/
def sboxTable : Bytes :=
  [0x63, 0x7c, 0x77, 0x7b, 0xf2, 0x6b, 0x6f, 0xc5, 0x30, 0x01, 0x67, 0x2b, 0xfe, 0xd7, 0xab, 0x76] ++
  [0xca, 0x82, 0xc9, 0x7d, 0xfa, 0x59, 0x47, 0xf0, 0xad, 0xd4, 0xa2, 0xaf, 0x9c, 0xa4, 0x72, 0xc0] ++
  [0xb7, 0xfd, 0x93, 0x26, 0x36, 0x3f, 0xf7, 0xcc, 0x34, 0xa5, 0xe5, 0xf1, 0x71, 0xd8, 0x31, 0x15] ++
  [0x04, 0xc7, 0x23, 0xc3, 0x18, 0x96, 0x05, 0x9a, 0x07, 0x12, 0x80, 0xe2, 0xeb, 0x27, 0xb2, 0x75] ++
  [0x09, 0x83, 0x2c, 0x1a, 0x1b, 0x6e, 0x5a, 0xa0, 0x52, 0x3b, 0xd6, 0xb3, 0x29, 0xe3, 0x2f, 0x84] ++
  [0x53, 0xd1, 0x00, 0xed, 0x20, 0xfc, 0xb1, 0x5b, 0x6a, 0xcb, 0xbe, 0x39, 0x4a, 0x4c, 0x58, 0xcf] ++
  [0xd0, 0xef, 0xaa, 0xfb, 0x43, 0x4d, 0x33, 0x85, 0x45, 0xf9, 0x02, 0x7f, 0x50, 0x3c, 0x9f, 0xa8] ++
  [0x51, 0xa3, 0x40, 0x8f, 0x92, 0x9d, 0x38, 0xf5, 0xbc, 0xb6, 0xda, 0x21, 0x10, 0xff, 0xf3, 0xd2] ++
  [0xcd, 0x0c, 0x13, 0xec, 0x5f, 0x97, 0x44, 0x17, 0xc4, 0xa7, 0x7e, 0x3d, 0x64, 0x5d, 0x19, 0x73] ++
  [0x60, 0x81, 0x4f, 0xdc, 0x22, 0x2a, 0x90, 0x88, 0x46, 0xee, 0xb8, 0x14, 0xde, 0x5e, 0x0b, 0xdb] ++
  [0xe0, 0x32, 0x3a, 0x0a, 0x49, 0x06, 0x24, 0x5c, 0xc2, 0xd3, 0xac, 0x62, 0x91, 0x95, 0xe4, 0x79] ++
  [0xe7, 0xc8, 0x37, 0x6d, 0x8d, 0xd5, 0x4e, 0xa9, 0x6c, 0x56, 0xf4, 0xea, 0x65, 0x7a, 0xae, 0x08] ++
  [0xba, 0x78, 0x25, 0x2e, 0x1c, 0xa6, 0xb4, 0xc6, 0xe8, 0xdd, 0x74, 0x1f, 0x4b, 0xbd, 0x8b, 0x8a] ++
  [0x70, 0x3e, 0xb5, 0x66, 0x48, 0x03, 0xf6, 0x0e, 0x61, 0x35, 0x57, 0xb9, 0x86, 0xc1, 0x1d, 0x9e] ++
  [0xe1, 0xf8, 0x98, 0x11, 0x69, 0xd9, 0x8e, 0x94, 0x9b, 0x1e, 0x87, 0xe9, 0xce, 0x55, 0x28, 0xdf] ++
  [0x8c, 0xa1, 0x89, 0x0d, 0xbf, 0xe6, 0x42, 0x68, 0x41, 0x99, 0x2d, 0x0f, 0xb0, 0x54, 0xbb, 0x16]

/-- The inverse S-box `IS` by rows of the high nibble (R13). -/
def invSboxTable : Bytes :=
  [0x52, 0x09, 0x6a, 0xd5, 0x30, 0x36, 0xa5, 0x38, 0xbf, 0x40, 0xa3, 0x9e, 0x81, 0xf3, 0xd7, 0xfb] ++
  [0x7c, 0xe3, 0x39, 0x82, 0x9b, 0x2f, 0xff, 0x87, 0x34, 0x8e, 0x43, 0x44, 0xc4, 0xde, 0xe9, 0xcb] ++
  [0x54, 0x7b, 0x94, 0x32, 0xa6, 0xc2, 0x23, 0x3d, 0xee, 0x4c, 0x95, 0x0b, 0x42, 0xfa, 0xc3, 0x4e] ++
  [0x08, 0x2e, 0xa1, 0x66, 0x28, 0xd9, 0x24, 0xb2, 0x76, 0x5b, 0xa2, 0x49, 0x6d, 0x8b, 0xd1, 0x25] ++
  [0x72, 0xf8, 0xf6, 0x64, 0x86, 0x68, 0x98, 0x16, 0xd4, 0xa4, 0x5c, 0xcc, 0x5d, 0x65, 0xb6, 0x92] ++
  [0x6c, 0x70, 0x48, 0x50, 0xfd, 0xed, 0xb9, 0xda, 0x5e, 0x15, 0x46, 0x57, 0xa7, 0x8d, 0x9d, 0x84] ++
  [0x90, 0xd8, 0xab, 0x00, 0x8c, 0xbc, 0xd3, 0x0a, 0xf7, 0xe4, 0x58, 0x05, 0xb8, 0xb3, 0x45, 0x06] ++
  [0xd0, 0x2c, 0x1e, 0x8f, 0xca, 0x3f, 0x0f, 0x02, 0xc1, 0xaf, 0xbd, 0x03, 0x01, 0x13, 0x8a, 0x6b] ++
  [0x3a, 0x91, 0x11, 0x41, 0x4f, 0x67, 0xdc, 0xea, 0x97, 0xf2, 0xcf, 0xce, 0xf0, 0xb4, 0xe6, 0x73] ++
  [0x96, 0xac, 0x74, 0x22, 0xe7, 0xad, 0x35, 0x85, 0xe2, 0xf9, 0x37, 0xe8, 0x1c, 0x75, 0xdf, 0x6e] ++
  [0x47, 0xf1, 0x1a, 0x71, 0x1d, 0x29, 0xc5, 0x89, 0x6f, 0xb7, 0x62, 0x0e, 0xaa, 0x18, 0xbe, 0x1b] ++
  [0xfc, 0x56, 0x3e, 0x4b, 0xc6, 0xd2, 0x79, 0x20, 0x9a, 0xdb, 0xc0, 0xfe, 0x78, 0xcd, 0x5a, 0xf4] ++
  [0x1f, 0xdd, 0xa8, 0x33, 0x88, 0x07, 0xc7, 0x31, 0xb1, 0x12, 0x10, 0x59, 0x27, 0x80, 0xec, 0x5f] ++
  [0x60, 0x51, 0x7f, 0xa9, 0x19, 0xb5, 0x4a, 0x0d, 0x2d, 0xe5, 0x7a, 0x9f, 0x93, 0xc9, 0x9c, 0xef] ++
  [0xa0, 0xe0, 0x3b, 0x4d, 0xae, 0x2a, 0xf5, 0xb0, 0xc8, 0xeb, 0xbb, 0x3c, 0x83, 0x53, 0x99, 0x61] ++
  [0x17, 0x2b, 0x04, 0x7e, 0xba, 0x77, 0xd6, 0x26, 0xe1, 0x69, 0x14, 0x63, 0x55, 0x21, 0x0c, 0x7d]

/-- `S[x]` (R13). -/
def sbox (x : Byte) : Byte := sboxTable.getD x.toNat 0

/-- `IS[x]` (R13). -/
def invSbox (x : Byte) : Byte := invSboxTable.getD x.toNat 0

/-! ## Key expansion -/

/-- A key-schedule word `[w0, w1, w2, w3]` (R13). -/
abbrev KeyWord := Vector Byte 4

/-- `RotWord` (R13). -/
def rotWord (w : KeyWord) : KeyWord := #v[w[1], w[2], w[3], w[0]]

/-- `SubWord` (R13). -/
def subWord (w : KeyWord) : KeyWord := w.map sbox

/-- `Rcon(j) = x^(j-1)` (R13). -/
def rcon (j : Nat) : Byte := xtimes (j - 1) 0x01

/-- The word `w[i]` from the words before it, for `i = |ws| >= 8` (R13). -/
def keyNextWord (ws : List KeyWord) : KeyWord :=
  let i := ws.length
  let t := ws.getD (i - 1) (Vector.replicate 4 0)
  let u := if i % 8 = 0 then xorVec (subWord (rotWord t)) #v[rcon (i / 8), 0, 0, 0]
           else if i % 8 = 4 then subWord t
           else t
  xorVec (ws.getD (i - 8) (Vector.replicate 4 0)) u

/-- The key schedule extended by `n` words (R13). -/
def keyExtend : Nat → List KeyWord → List KeyWord
  | 0, ws => ws
  | n + 1, ws => keyExtend n (ws ++ [keyNextWord ws])

/-- `KeyExpansion(key)`: `w[0..59]` (R13). -/
def keyExpansion (key : Key) : List KeyWord :=
  keyExtend 52 ((List.finRange 8).map fun i =>
    #v[key[4 * i.val], key[4 * i.val + 1], key[4 * i.val + 2], key[4 * i.val + 3]])

/-- The round key `r` as a block: byte `row + 4c` is `w[4r + c][row]` (R13 AddRoundKey). -/
def roundKey (ws : List KeyWord) (r : Nat) : Block :=
  Vector.ofFn fun i => (ws.getD (4 * r + i.val / 4) (Vector.replicate 4 0))[i.val % 4]'(Nat.mod_lt _ (by decide))

/-! ## The rounds. A block is the state: byte `r + 4c` is `s[r][c]` (R13). -/

/-- `s[r][c]` with both indices taken modulo 4 (R13). -/
def cell (s : Block) (r c : Nat) : Byte :=
  s[r % 4 + 4 * (c % 4)]'(by have := Nat.mod_lt r (y := 4) (by decide); have := Nat.mod_lt c (y := 4) (by decide); omega)

/-- A block from its cells: `f r c` is `s[r][c]` (R13). -/
def ofCells (f : Nat → Nat → Byte) : Block := Vector.ofFn fun i => f (i.val % 4) (i.val / 4)

/-- `AddRoundKey` (R13). -/
def addRoundKey (ws : List KeyWord) (r : Nat) (s : Block) : Block := xorVec s (roundKey ws r)

/-- `SubBytes` (R13). -/
def subBytes (s : Block) : Block := s.map sbox

/-- `InvSubBytes` (R13). -/
def invSubBytes (s : Block) : Block := s.map invSbox

/-- `ShiftRows`: row `r` rotated left by `r` (R13). -/
def shiftRows (s : Block) : Block := ofCells fun r c => cell s r (c + r)

/-- `InvShiftRows`: row `r` rotated right by `r` (R13). -/
def invShiftRows (s : Block) : Block := ofCells fun r c => cell s r (c + 4 - r)

/-- The matrix `M` (R13). -/
def mixMatrix : List (List Byte) :=
  [[0x02, 0x03, 0x01, 0x01], [0x01, 0x02, 0x03, 0x01], [0x01, 0x01, 0x02, 0x03], [0x03, 0x01, 0x01, 0x02]]

/-- The matrix `IM` (R13). -/
def invMixMatrix : List (List Byte) :=
  [[0x0e, 0x0b, 0x0d, 0x09], [0x09, 0x0e, 0x0b, 0x0d], [0x0d, 0x09, 0x0e, 0x0b], [0x0b, 0x0d, 0x09, 0x0e]]

/-- Each column `a` becomes `m a`, products by `gmul` and sums by `xor` (R13). -/
def mixWith (m : List (List Byte)) (s : Block) : Block :=
  ofCells fun r c =>
    gmul ((m.getD r []).getD 0 0) (cell s 0 c) ^^^ gmul ((m.getD r []).getD 1 0) (cell s 1 c) ^^^
      gmul ((m.getD r []).getD 2 0) (cell s 2 c) ^^^ gmul ((m.getD r []).getD 3 0) (cell s 3 c)

/-- `MixColumns` (R13). -/
def mixColumns (s : Block) : Block := mixWith mixMatrix s

/-- `InvMixColumns` (R13). -/
def invMixColumns (s : Block) : Block := mixWith invMixMatrix s

/-- Round `r` of encryption, `1 <= r <= 13` (R13). -/
def encRound (ws : List KeyWord) (s : Block) (r : Nat) : Block :=
  addRoundKey ws r (mixColumns (shiftRows (subBytes s)))

/-- Round `r` of decryption, `1 <= r <= 13` (R13). -/
def decRound (ws : List KeyWord) (s : Block) (r : Nat) : Block :=
  invMixColumns (addRoundKey ws r (invSubBytes (invShiftRows s)))

/-- The middle round numbers `1, 2, ..., 13` (R13). -/
def middleRounds : List Nat := (List.range 13).map (· + 1)

/-- `aes256_enc(key, b)` (R13). -/
def aes256Enc (key : Key) (b : Block) : Block :=
  let ws := keyExpansion key
  addRoundKey ws 14 (shiftRows (subBytes (middleRounds.foldl (encRound ws) (addRoundKey ws 0 b))))

/-- `aes256_dec(key, b)` (R13). -/
def aes256Dec (key : Key) (b : Block) : Block :=
  let ws := keyExpansion key
  addRoundKey ws 0 (invSubBytes (invShiftRows (middleRounds.reverse.foldl (decRound ws) (addRoundKey ws 14 b))))

/-! ## CBC without padding (R16), on lists of blocks -/

/-- `cbc_enc(key, iv, p)` on the blocks of `p` (R16). -/
def cbcEnc (key : Key) : Block → List Block → List Block
  | _, [] => []
  | iv, p :: ps =>
    let c := aes256Enc key (xorVec p iv)
    c :: cbcEnc key c ps

/-- `cbc_dec(key, iv, c)` on the blocks of `c` (R16). -/
def cbcDec (key : Key) : Block → List Block → List Block
  | _, [] => []
  | iv, c :: cs => xorVec (aes256Dec key c) iv :: cbcDec key c cs

end Sys2Proof.Machine
end

