-- ==== Sys2Proof/Machine/Operands.lean ====
section
/-! DEFINITION. The operand forms of a command: the latched registers as unbounded naturals
(30_encoding.md R91, R93), the key slot its word names, and the tests its checks make on them
(60_exceptions.md R313 to R315). -/

namespace Sys2Proof.Machine

/-- `CUR.src` as a scratch byte offset (R91). -/
def State.srcOff (s : State) : Nat := s.engine.cur.src.toNat

/-- `CUR.dst` as a scratch byte offset (R91). -/
def State.dstOff (s : State) : Nat := s.engine.cur.dst.toNat

/-- `CUR.aux` as a scratch byte offset (R91). -/
def State.auxOff (s : State) : Nat := s.engine.cur.aux.toNat

/-- `CUR.len` as a count: bytes, or for KDF UTF-16 code units (R91). -/
def State.lenCount (s : State) : Nat := s.engine.cur.len.toNat

/-- The KDF's password length in bytes, `2 * CUR.len` without wrap-around (R91, R121). -/
def State.passwordLen (s : State) : Nat := 2 * s.lenCount

/-- `in_range(off, n)` on unbounded naturals (R313). -/
def State.inRange (s : State) (off n : Nat) : Bool := decide (off + n ≤ s.params.scratchBytes)

/-- `CUR.len mod 16 = 0` (R173, R174). -/
def State.wholeBlocks (s : State) : Bool := s.lenCount % 16 == 0

/-- `KS[k].valid = 1` (R33). -/
def State.keyLoaded (s : State) (k : Fin 4) : Bool := s.engine.ks[k].valid

/-- `KS[k].value` (R33). -/
def State.keyValue (s : State) (k : Fin 4) : Key := s.engine.ks[k].value

/-- `CHAIN.valid = 1` (R34). -/
def State.ivLoaded (s : State) : Bool := s.engine.chain.valid

/-- `MemRead(off, n)` (R10). -/
def State.memRead (s : State) (off n : Nat) : Bytes := s.engine.scr.readBytes off n

/-- `MemRead(off, n)` as a string whose length is its type (R10). -/
def State.memReadVec (s : State) (off n : Nat) : Vector Byte n := s.engine.scr.readVec off n

end Sys2Proof.Machine
end

