-- ==== Sys2Proof/Machine/Cipher.lean ====
section
/-! DEFINITION. The key and IV commands and the AES-256-CBC commands (42_cipher.md). -/

namespace Sys2Proof.Machine

/-- KEYLOAD (R170). -/
def execKeyload (k : Fin 4) (s : State) : Host.Outcome State Fault Refusal :=
  complete s do
    require (s.inRange s.srcOff 32) .badRange
    return s.engine.loadKey k (s.memReadVec s.srcOff 32)

/-- IVLOAD (R171). -/
def execIvload (s : State) : Host.Outcome State Fault Refusal :=
  complete s do
    require (s.inRange s.srcOff 16) .badRange
    return s.engine.setChain ⟨s.memReadVec s.srcOff 16, true⟩

/-- IVSTORE (R172). -/
def execIvstore (s : State) : Host.Outcome State Fault Refusal :=
  complete s do
    require (s.inRange s.dstOff 16) .badRange
    require s.ivLoaded .ivNotLoaded
    return s.engine.memWrite s.dstOff s.engine.chain.value.toList

/-- What the AES loops carry from block to block: SCR and CHAIN.value (R175). -/
structure CbcState where
  scr : Memory
  chain : Block
  deriving DecidableEq, Repr

/-- One block of AESENC's loop: read, encrypt, write, chain (R173). -/
def encBlock (key : Key) (src dst : Nat) (x : CbcState) : CbcState :=
  let c := aes256Enc key (xorVec (x.scr.readVec src 16) x.chain)
  ⟨x.scr.writeBytes dst c.toList, c⟩

/-- One block of AESDEC's loop: the ciphertext block is read, and kept as the chaining value, before the
plaintext is written (R174). -/
def decBlock (key : Key) (src dst : Nat) (x : CbcState) : CbcState :=
  let c : Block := x.scr.readVec src 16
  ⟨x.scr.writeBytes dst (xorVec (aes256Dec key c) x.chain).toList, c⟩

/-- AESENC's loop over `n` blocks, in increasing order (R173, R175). -/
def encLoop (key : Key) : Nat → Nat → Nat → CbcState → CbcState
  | _, _, 0, x => x
  | src, dst, n + 1, x => encLoop key (src + 16) (dst + 16) n (encBlock key src dst x)

/-- AESDEC's loop over `n` blocks, in increasing order (R174, R175). -/
def decLoop (key : Key) : Nat → Nat → Nat → CbcState → CbcState
  | _, _, 0, x => x
  | src, dst, n + 1, x => decLoop key (src + 16) (dst + 16) n (decBlock key src dst x)

/-- The loop's state at the start of a command (R173, R174). -/
def State.cbcStart (s : State) : CbcState := ⟨s.engine.scr, s.engine.chain.value⟩

/-- The engine with a loop's result: SCR and CHAIN.value; CHAIN stays valid (R173, R174). -/
def Engine.setCbc (e : Engine) (x : CbcState) : Engine :=
  (e.setScr x.scr).setChain ⟨x.chain, e.chain.valid⟩

/-- AESENC (R173). -/
def execAesenc (k : Fin 4) (s : State) : Host.Outcome State Fault Refusal :=
  complete s do
    require (s.inRange s.srcOff s.lenCount) .badRange
    require (s.inRange s.dstOff s.lenCount) .badRange
    require s.wholeBlocks .badLength
    require (s.keyLoaded k) .keyNotLoaded
    require s.ivLoaded .ivNotLoaded
    return s.engine.setCbc (encLoop (s.keyValue k) s.srcOff s.dstOff (s.lenCount / 16) s.cbcStart)

/-- AESDEC (R174). Padding is neither added nor removed (R177). -/
def execAesdec (k : Fin 4) (s : State) : Host.Outcome State Fault Refusal :=
  complete s do
    require (s.inRange s.srcOff s.lenCount) .badRange
    require (s.inRange s.dstOff s.lenCount) .badRange
    require s.wholeBlocks .badLength
    require (s.keyLoaded k) .keyNotLoaded
    require s.ivLoaded .ivNotLoaded
    return s.engine.setCbc (decLoop (s.keyValue k) s.srcOff s.dstOff (s.lenCount / 16) s.cbcStart)

end Sys2Proof.Machine
end

