-- ==== Sys2Proof/Machine/Sha256.lean ====
section
/-! DEFINITION. SHA-256 (00_scope.md R12). -/

namespace Sys2Proof.Machine

/-- `s0(x)` (R12). -/
def shaSmall0 (x : Word) : Word := x.rotateRight 7 ^^^ x.rotateRight 18 ^^^ (x >>> 3)

/-- `s1(x)` (R12). -/
def shaSmall1 (x : Word) : Word := x.rotateRight 17 ^^^ x.rotateRight 19 ^^^ (x >>> 10)

/-- `S0(x)` (R12). -/
def shaBig0 (x : Word) : Word := x.rotateRight 2 ^^^ x.rotateRight 13 ^^^ x.rotateRight 22

/-- `S1(x)` (R12). -/
def shaBig1 (x : Word) : Word := x.rotateRight 6 ^^^ x.rotateRight 11 ^^^ x.rotateRight 25

/-- `Ch(e, f, g)` (R12). -/
def shaCh (e f g : Word) : Word := (e &&& f) ^^^ (~~~e &&& g)

/-- `Maj(a, b, c)` (R12). -/
def shaMaj (a b c : Word) : Word := (a &&& b) ^^^ (a &&& c) ^^^ (b &&& c)

/-- The eight working variables, or the hash value `H` (R12). -/
structure ShaState where
  (a b c d e f g h : Word)
  deriving DecidableEq, Repr

/-- `H0` (R12). -/
def shaInit : ShaState :=
  ⟨0x6a09e667, 0xbb67ae85, 0x3c6ef372, 0xa54ff53a, 0x510e527f, 0x9b05688c, 0x1f83d9ab, 0x5be0cd19⟩

/-- `K[0..63]` (R12), in R12's rows of eight. -/
def shaK : List Word :=
  [0x428a2f98, 0x71374491, 0xb5c0fbcf, 0xe9b5dba5, 0x3956c25b, 0x59f111f1, 0x923f82a4, 0xab1c5ed5] ++
  [0xd807aa98, 0x12835b01, 0x243185be, 0x550c7dc3, 0x72be5d74, 0x80deb1fe, 0x9bdc06a7, 0xc19bf174] ++
  [0xe49b69c1, 0xefbe4786, 0x0fc19dc6, 0x240ca1cc, 0x2de92c6f, 0x4a7484aa, 0x5cb0a9dc, 0x76f988da] ++
  [0x983e5152, 0xa831c66d, 0xb00327c8, 0xbf597fc7, 0xc6e00bf3, 0xd5a79147, 0x06ca6351, 0x14292967] ++
  [0x27b70a85, 0x2e1b2138, 0x4d2c6dfc, 0x53380d13, 0x650a7354, 0x766a0abb, 0x81c2c92e, 0x92722c85] ++
  [0xa2bfe8a1, 0xa81a664b, 0xc24b8b70, 0xc76c51a3, 0xd192e819, 0xd6990624, 0xf40e3585, 0x106aa070] ++
  [0x19a4c116, 0x1e376c08, 0x2748774c, 0x34b0bcb5, 0x391c0cb3, 0x4ed8aa4a, 0x5b9cca4f, 0x682e6ff3] ++
  [0x748f82ee, 0x78a5636f, 0x84c87814, 0x8cc70208, 0x90befffa, 0xa4506ceb, 0xbef9a3f7, 0xc67178f2]

/-- The least `k` with `(n + 1 + k + 8) mod 64 = 0`, for a message of `n` bytes (R12). -/
def shaPadZeros (n : Nat) : Nat := (119 - n % 64) % 64

/-- `pad(m)` (R12). -/
def shaPad (m : Bytes) : Bytes := m ++ [0x80] ++ zeros (shaPadZeros m.length) ++ be64 (8 * m.length)

/-- The big-endian words of a byte string: `W[0..15]` of a 64-byte block (R12). -/
def shaWords : Bytes → List Word
  | b0 :: b1 :: b2 :: b3 :: s => be32Decode b0 b1 b2 b3 :: shaWords s
  | _ => []

/-- `W[t]` from the words before it, for `t = |ws| >= 16` (R12). -/
def shaNextWord (ws : List Word) : Word :=
  shaSmall1 (ws.getD (ws.length - 2) 0) + ws.getD (ws.length - 7) 0 +
    shaSmall0 (ws.getD (ws.length - 15) 0) + ws.getD (ws.length - 16) 0

/-- The schedule extended by `n` words (R12). -/
def shaExtend : Nat → List Word → List Word
  | 0, ws => ws
  | n + 1, ws => shaExtend n (ws ++ [shaNextWord ws])

/-- `W[0..63]` of a block (R12). -/
def shaSchedule (block : Bytes) : List Word := shaExtend 48 (shaWords block)

/-- One round: `T1`, `T2` and the shift of the working variables (R12). -/
def shaRound (x : ShaState) (kw : Word × Word) : ShaState :=
  let t1 := x.h + shaBig1 x.e + shaCh x.e x.f x.g + kw.1 + kw.2
  let t2 := shaBig0 x.a + shaMaj x.a x.b x.c
  ⟨t1 + t2, x.a, x.b, x.c, x.d + t1, x.e, x.f, x.g⟩

/-- `H[i] = H[i] + (a..h)[i]` (R12). -/
def shaAdd (x y : ShaState) : ShaState :=
  ⟨x.a + y.a, x.b + y.b, x.c + y.c, x.d + y.d, x.e + y.e, x.f + y.f, x.g + y.g, x.h + y.h⟩

/-- The hash value after one 64-byte block (R12). -/
def shaBlock (hv : ShaState) (block : Bytes) : ShaState :=
  shaAdd hv ((shaK.zip (shaSchedule block)).foldl shaRound hv)

/-- The consecutive pieces of `n` bytes each of a byte string, `count` of them. -/
def pieces (n count : Nat) (s : Bytes) : List Bytes :=
  (List.range count).map fun i => slice s (n * i) (n * i + n)

/-- `be32(H[0]) ++ ... ++ be32(H[7])` (R12). -/
def shaBytes (x : ShaState) : Bytes :=
  be32 x.a ++ be32 x.b ++ be32 x.c ++ be32 x.d ++ be32 x.e ++ be32 x.f ++ be32 x.g ++ be32 x.h

/-- `sha256(m)` (R12): 32 bytes. -/
def sha256 (m : Bytes) : Bytes :=
  shaBytes ((pieces 64 ((shaPad m).length / 64) (shaPad m)).foldl shaBlock shaInit)

end Sys2Proof.Machine
end

