-- ==== Sys2Proof/Machine/Hmac.lean ====
section
/-! DEFINITION. HMAC-SHA256 with a 32-byte key (00_scope.md R14) and the key-derivation function
(40_kdf.md R120). -/

namespace Sys2Proof.Machine

/-- `K0`: the key padded with zeros to the 64-byte block (R14). -/
def hmacBlockKey (key : Key) : Bytes := key.toList ++ zeros 32

/-- `hmac_sha256(key, m)` (R14): 32 bytes. -/
def hmacSha256 (key : Key) (m : Bytes) : Bytes :=
  let inner := sha256 (xorBytes (hmacBlockKey key) (rep 64 0x36) ++ m)
  sha256 (xorBytes (hmacBlockKey key) (rep 64 0x5c) ++ inner)

/-- One KDF round: the digest of the whole buffer replaces its bytes [0, 32) (R120). -/
def kdfRound (w : Bytes) : Bytes := sha256 w ++ w.drop 32

/-- `n` KDF rounds (R120). -/
def kdfRounds : Nat → Bytes → Bytes
  | 0, w => w
  | n + 1, w => kdfRounds n (kdfRound w)

/-- The KDF's working buffer before the first round (R120). -/
def kdfBuffer (salt : Block) (pw : Bytes) : Bytes := salt.toList ++ zeros 16 ++ pw

/-- `kdf(salt, pwbytes)` (R120). -/
def kdf (salt : Block) (pw : Bytes) : Key :=
  toVec 32 ((kdfRounds Config.kdfRounds (kdfBuffer salt pw)).take 32)

/-- The bytes of a password given as UTF-16 code units: each as `le16`, in order, nothing added (R122). -/
def passwordBytes (pw : List (BitVec 16)) : Bytes := (pw.map le16).flatten

end Sys2Proof.Machine
end

