-- ==== Sys2Proof/Machine/Kdf.lean ====
section
/-! DEFINITION. The key-derivation command (40_kdf.md). -/

namespace Sys2Proof.Machine

/-- KDF (R121). Its legality check is the decoder's, as in every meaning of this model. -/
def execKdf (k : Fin 4) (s : State) : Host.Outcome State Fault Refusal :=
  complete s do
    require (s.inRange s.srcOff 16) .badRange
    require (s.inRange s.auxOff s.passwordLen) .badRange
    return s.engine.loadKey k (kdf (s.memReadVec s.srcOff 16) (s.memRead s.auxOff s.passwordLen))

end Sys2Proof.Machine
end

