-- ==== Sys2Proof/Machine/Mac.lean ====
section
/-! DEFINITION. The HMAC-SHA256 commands and the tag comparison (41_mac.md). -/

namespace Sys2Proof.Machine

/-- HMACINIT (R140): the key is copied (R144). -/
def execHmacinit (k : Fin 4) (s : State) : Host.Outcome State Fault Refusal :=
  complete s do
    require (s.keyLoaded k) .keyNotLoaded
    return s.engine.setHctx (.active (s.keyValue k) [])

/-- HMACUPD (R141). -/
def execHmacupd (s : State) : Host.Outcome State Fault Refusal :=
  complete s do
    require (s.inRange s.srcOff s.lenCount) .badRange
    match s.engine.hctx with
    | .none => throw .noHmacContext
    | .active key msg =>
      require (decide (msg.length + s.lenCount ≤ Config.hmacMaxMsg)) .hmacLengthOverflow
      return s.engine.setHctx (.active key (msg ++ s.memRead s.srcOff s.lenCount))

/-- HMACFIN (R142). -/
def execHmacfin (s : State) : Host.Outcome State Fault Refusal :=
  complete s do
    require (s.inRange s.dstOff 32) .badRange
    match s.engine.hctx with
    | .none => throw .noHmacContext
    | .active key msg => return (s.engine.memWrite s.dstOff (hmacSha256 key msg)).setHctx .none

/-- CMP (R143). -/
def execCmp (s : State) : Host.Outcome State Fault Refusal :=
  complete s do
    require (s.inRange s.srcOff s.lenCount) .badRange
    require (s.inRange s.auxOff s.lenCount) .badRange
    return s.engine.setMatch (ctEq (s.memRead s.srcOff s.lenCount) (s.memRead s.auxOff s.lenCount))

end Sys2Proof.Machine
end

