-- ==== Sys2Proof/Machine/Utility.lean ====
section
/-! DEFINITION. The utility and key-erasure commands (43_utility.md). -/

namespace Sys2Proof.Machine

/-- NOP (R200). -/
def execNop (s : State) : Host.Outcome State Fault Refusal := complete s (.ok s.engine)

/-- KEYZERO of one slot (R201). -/
def execKeyzero (k : Fin 4) (s : State) : Host.Outcome State Fault Refusal :=
  complete s (.ok (s.engine.clearKey k))

/-- KEYZERO of all slots (R201). -/
def execKeyzeroAll (s : State) : Host.Outcome State Fault Refusal :=
  complete s (.ok s.engine.clearAllKeys)

/-- SCRUB (R202). -/
def execScrub (s : State) : Host.Outcome State Fault Refusal :=
  complete s do
    require (s.inRange s.dstOff s.lenCount) .badRange
    return s.engine.memWrite s.dstOff (zeros s.lenCount)

/-- CTXCLEAR (R203). -/
def execCtxclear (s : State) : Host.Outcome State Fault Refusal :=
  complete s (.ok ((s.engine.setChain Chain.cleared).setHctx .none))

end Sys2Proof.Machine
end

