-- ==== Sys2Proof/Machine/Dispatch.lean ====
section
/-! DEFINITION. What each command does at its completion step: one arm per constructor of `Instr`. -/

namespace Sys2Proof.Machine

/-- The completion of the latched command CUR as instruction `i` (10_state.md R37). -/
def exec (i : Instr) (s : State) : Host.Outcome State Fault Refusal :=
  match i with
  | .nop => Sys2Proof.Machine.execNop s
  | .kdf k => Sys2Proof.Machine.execKdf k s
  | .keyload k => Sys2Proof.Machine.execKeyload k s
  | .keyzero k => Sys2Proof.Machine.execKeyzero k s
  | .keyzeroAll => Sys2Proof.Machine.execKeyzeroAll s
  | .ivload => Sys2Proof.Machine.execIvload s
  | .ivstore => Sys2Proof.Machine.execIvstore s
  | .aesenc k => Sys2Proof.Machine.execAesenc k s
  | .aesdec k => Sys2Proof.Machine.execAesdec k s
  | .hmacinit k => Sys2Proof.Machine.execHmacinit k s
  | .hmacupd => Sys2Proof.Machine.execHmacupd s
  | .hmacfin => Sys2Proof.Machine.execHmacfin s
  | .cmp => Sys2Proof.Machine.execCmp s
  | .scrub => Sys2Proof.Machine.execScrub s
  | .ctxclear => Sys2Proof.Machine.execCtxclear s

end Sys2Proof.Machine
end

