-- ==== Sys2Proof/Machine/Completion.lean ====
section
/-! DEFINITION. The engine's side of a step: when the command in flight completes, and its completion. -/

namespace Sys2Proof.Machine

/-- The command word the engine runs: `CUR.word` (10_state.md R37). The engine fetches nothing else
(20_memory.md R74). -/
def State.fetch (s : State) : Word := s.engine.cur.word

/-- The command in flight completes in this step: BUSY = 1 and its latency has passed (R37, R354). -/
def State.due (s : State) : Bool := s.engine.status.busy && s.delay == 0

/-- The completion step (R37): the legality check first (R94, R314), then the command. -/
def completion (s : State) : Host.Outcome State Fault Refusal :=
  match decodeWord s.fetch with
  | .ok i => exec i s
  | .error _ => complete s (.error .illegalCmd)

end Sys2Proof.Machine
end

