-- ==== Sys2Proof/Machine/Step.lean ====
section
/-! DEFINITION. One step of the machine: the completion of a command that is due, or the host's next
event (70_reset_and_hazards.md R357). -/

namespace Sys2Proof.Machine

/-- One atomic step (R357): "the state changes only at host bus accesses, completion steps and reset
steps". -/
def step (s : State) : Host.Outcome State Fault Refusal :=
  if s.due then completion s else .next (hostStep s)

/-- `s` with the command word `w` latched in CUR and due, so that the very next step runs it. -/
def State.withFetchWord (s : State) (nbits w : Nat) : State :=
  s.latchDue (BitVec.ofNat 32 (w % 2 ^ nbits))

end Sys2Proof.Machine
end

