-- ==== Sys2Proof/Machine/Container.lean ====
section
/-! DEFINITION. The container format (44_container_format.md), host protocol: the bytes the format gives
for a plaintext, a password, the creator string and the host's random draws. -/

namespace Sys2Proof.Machine

/-- The blocks of a byte string of whole blocks (R16). -/
def blocksOf (s : Bytes) : List Block := (pieces 16 (s.length / 16) s).map (toVec 16)

/-- The bytes of a list of blocks. -/
def bytesOf (bs : List Block) : Bytes := (bs.map Vector.toList).flatten

/-- `cbc_enc(key, iv, p)` for `|p|` a multiple of 16 (R16). -/
def cbcEncBytes (key : Key) (iv : Block) (p : Bytes) : Bytes := bytesOf (cbcEnc key iv (blocksOf p))

/-- `cbc_dec(key, iv, c)` for `|c|` a multiple of 16 (R16). -/
def cbcDecBytes (key : Key) (iv : Block) (c : Bytes) : Bytes := bytesOf (cbcDec key iv (blocksOf c))

/-- The host's random draws, free inputs of an encoder run (R252, U6). -/
structure Draws where
  credIV : Block
  sessionIV : Block
  sessionKey : Key
  deriving DecidableEq, Repr

/-- The magic "AES" (R221). -/
def magic : Bytes := [0x41, 0x45, 0x53]

/-- The FileHeader the encoder writes (R221). -/
def fileHeader : Bytes := magic ++ [Config.formatVersion, 0x00]

/-- An extension record: `be16(L) ++ body` (R222). -/
def extensionRecord (body : Bytes) : Bytes := be16 body.length ++ body

/-- The extension name "CREATED_BY" (R223). -/
def createdBy : Bytes := [0x43, 0x52, 0x45, 0x41, 0x54, 0x45, 0x44, 0x5F, 0x42, 0x59]

/-- `|CREATOR| <= 65524` (R223). -/
def creatorOk (creator : Bytes) : Bool := decide (creator.length ≤ 65524)

/-- The extension section the encoder writes (R223). -/
def extensionSection (creator : Bytes) : Bytes :=
  extensionRecord (createdBy ++ [0x00] ++ creator) ++ extensionRecord (zeros 128) ++ [0x00, 0x00]

/-- `encryptedPayload` (R224). -/
def encryptedPayload (credKey : Key) (d : Draws) : Bytes :=
  cbcEncBytes credKey d.credIV (d.sessionIV.toList ++ d.sessionKey.toList)

/-- The CredentialsBlock (R224). -/
def credentialsBlock (pw : List (BitVec 16)) (d : Draws) : Bytes :=
  let credKey := kdf d.credIV (passwordBytes pw)
  d.credIV.toList ++ encryptedPayload credKey d ++ hmacSha256 credKey (encryptedPayload credKey d)

/-- The padding length, 1 to 16 (R225, R226). -/
def padLen (n : Nat) : Nat := 16 - n % 16

/-- The padded plaintext `P ++ rep(padLen, padLen)` (R225, R226). -/
def paddedPlaintext (p : Bytes) : Bytes := p ++ rep (padLen p.length) (BitVec.ofNat 8 (padLen p.length))

/-- The ContentStream (R225). -/
def contentStream (d : Draws) (p : Bytes) : Bytes := cbcEncBytes d.sessionKey d.sessionIV (paddedPlaintext p)

/-- The Trailer (R227). -/
def trailer (d : Draws) (p : Bytes) : Bytes :=
  [BitVec.ofNat 8 (p.length % 16)] ++ hmacSha256 d.sessionKey (contentStream d p)

/-- A whole container (R220). -/
def container (creator : Bytes) (pw : List (BitVec 16)) (d : Draws) (p : Bytes) : Bytes :=
  fileHeader ++ extensionSection creator ++ credentialsBlock pw d ++ contentStream d p ++ trailer d p

end Sys2Proof.Machine
end

