-- ==== Sys2Proof/Machine/Run.lean ====
section
/-! DEFINITION. Runs of the machine: several steps, and the steps that serve one access of the host. -/

namespace Sys2Proof.Machine

/-- The state after one step. No step stops the machine (obligation `StepNeverStops`), so the last two arms are
never taken. -/
def State.after (s : State) : State :=
  match step s with
  | .next t => t
  | .fault _ => s
  | .refused _ => s

/-- The state after `n` steps. -/
def runSteps : Nat → State → State
  | 0, s => s
  | n + 1, s => runSteps n s.after

/-- The machine after it has served the access `a`, which the host puts before its other events: one
step, or two where the command in flight completes first (20_memory.md R70). -/
def serve (a : Access) (s : State) : State :=
  if s.due then ({ s with queue := .access a :: s.queue } : State).after.after
  else ({ s with queue := .access a :: s.queue } : State).after

end Sys2Proof.Machine
end

