-- ==== Sys2Proof/Machine/HostBus.lean ====
section
/-! DEFINITION. The notation of the host's programs (30_encoding.md R98 to R100): command lines, bus
actions and pseudo-commands, as programs over the machine. A program drives the machine only through
bus accesses that `step` serves. -/

namespace Sys2Proof.Machine

/-- Why a host program stops before its end. -/
inductive HostStop where
  /-- CHECK found `ERR = 1` (R99). -/
  | commandError
  /-- The bus gave no data for a read: the access was not one the engine answers. -/
  | noData
  /-- A MATCH the program relies on was 0 (R278, R283). -/
  | mismatch
  deriving DecidableEq, Repr

/-- A host program: it acts on the machine, and its stop keeps the machine as it is then. -/
abbrev HostProg := EStateM HostStop State

/-- The machine after a host program, however it ended. -/
def HostProg.final (p : HostProg α) (s : State) : State :=
  match p.run s with
  | .ok _ t => t
  | .error _ t => t

/-! ## Command lines (R98) -/

/-- A command line. -/
inductive Line where
  | nop
  | kdf (k : Fin 4) (src aux len : Word)
  | keyload (k : Fin 4) (src : Word)
  | keyzero (k : Fin 4)
  | keyzeroAll
  | ivload (src : Word)
  | ivstore (dst : Word)
  | aesenc (k : Fin 4) (src dst len : Word)
  | aesdec (k : Fin 4) (src dst len : Word)
  | hmacinit (k : Fin 4)
  | hmacupd (src len : Word)
  | hmacfin (dst : Word)
  | cmp (src aux len : Word)
  | scrub (dst len : Word)
  | ctxclear
  deriving DecidableEq, Repr

/-- The instruction a line issues (R98). -/
def Line.instr : Line → Instr
  | .nop => .nop
  | .kdf k _ _ _ => .kdf k
  | .keyload k _ => .keyload k
  | .keyzero k => .keyzero k
  | .keyzeroAll => .keyzeroAll
  | .ivload _ => .ivload
  | .ivstore _ => .ivstore
  | .aesenc k _ _ _ => .aesenc k
  | .aesdec k _ _ _ => .aesdec k
  | .hmacinit k => .hmacinit k
  | .hmacupd _ _ => .hmacupd
  | .hmacfin _ => .hmacfin
  | .cmp _ _ _ => .cmp
  | .scrub _ _ => .scrub
  | .ctxclear => .ctxclear

/-- The operand registers a line writes, in the order SRC, DST, LEN, AUX; "registers the command does not
read are not written" (R93, R98). -/
def Line.operands : Line → List (Reg × Word)
  | .nop => []
  | .kdf _ src aux len => [(.src, src), (.len, len), (.aux, aux)]
  | .keyload _ src => [(.src, src)]
  | .keyzero _ => []
  | .keyzeroAll => []
  | .ivload src => [(.src, src)]
  | .ivstore dst => [(.dst, dst)]
  | .aesenc _ src dst len => [(.src, src), (.dst, dst), (.len, len)]
  | .aesdec _ src dst len => [(.src, src), (.dst, dst), (.len, len)]
  | .hmacinit _ => []
  | .hmacupd src len => [(.src, src), (.len, len)]
  | .hmacfin dst => [(.dst, dst)]
  | .cmp src aux len => [(.src, src), (.len, len), (.aux, aux)]
  | .scrub dst len => [(.dst, dst), (.len, len)]
  | .ctxclear => []

/-- The register writes a line stands for: its operands, then the command word to CMD (R98, R100). -/
def Line.writes (l : Line) : List (Reg × Word) := l.operands ++ [(.cmd, encode l.instr)]

/-! ## Bus actions (R99) -/

/-- One 32-bit write at a bus offset (`W`). The host does not look at the bus's answer. -/
def busWrite (off : Nat) (v : Word) : HostProg Unit := fun s =>
  .ok () (serve (.write .w32 (s.params.engineBase + off) v) s)

/-- One 32-bit read at a bus offset (`R`). -/
def busRead (off : Nat) : HostProg Word := fun s =>
  let t := serve (.read .w32 (s.params.engineBase + off)) s
  match t.response with
  | some (.data v) => .ok v t
  | _ => .error .noData t

/-- `R STATUS` (R99). -/
def readStatus : HostProg Word := busRead Reg.status.offset

/-- Writes of consecutive words (`WS`). -/
def writeWords : Nat → List Word → HostProg Unit
  | _, [] => pure ()
  | off, w :: ws => do
    busWrite off w
    writeWords (off + 4) ws

/-- The little-endian words of a byte string of whole words (R63, R99). -/
def wordsOfBytes : Bytes → List Word
  | b0 :: b1 :: b2 :: b3 :: s => wordOfBytes b0 b1 b2 b3 :: wordsOfBytes s
  | _ => []

/-- A byte string "padded with zero bytes to a word multiple" (R253, R283). -/
def padToWord (s : Bytes) : Bytes := s ++ zeros ((4 - s.length % 4) % 4)

/-- `WS off, s`: the host writes bytes to scratch (R99). A partial last word is padded with zeros. -/
def writeScratchBytes (off : Nat) (s : Bytes) : HostProg Unit :=
  writeWords (scratchWindow + off) (wordsOfBytes (padToWord s))

/-- Reads of `n` consecutive words, as bytes (`RS`). -/
def readWords : Nat → Nat → HostProg Bytes
  | _, 0 => pure []
  | off, n + 1 => do
    let w ← busRead off
    let s ← readWords (off + 4) n
    return bytesOfWord w ++ s

/-- `RS off, n` for `n` a multiple of 4 (R99). -/
def readScratchBytes (off n : Nat) : HostProg Bytes := readWords (scratchWindow + off) (n / 4)

/-! ## Pseudo-commands (R99) -/

/-- A line issued: its register writes in order; it "does not wait for completion" (R98). -/
def issue (l : Line) : HostProg Unit :=
  l.writes.foldl (fun p rv => do p; busWrite rv.1.offset rv.2) (pure ())

/-- `R STATUS` until BUSY = 0, at most `n` times. -/
def waitLoop : Nat → HostProg Unit
  | 0 => pure ()
  | n + 1 => do
    let v ← readStatus
    if v.getLsbD 0 then waitLoop n else pure ()

/-- `WAIT` (R99). A command in flight completes after `delay` more steps, so `delay + 2` reads are
enough. -/
def wait : HostProg Unit := fun s => waitLoop (s.delay + 2) s

/-- `CHECK`: if ERR = 1 the program stops in its error path (R99). -/
def check : HostProg Unit := do
  let v ← readStatus
  if v.getLsbD 2 then throw .commandError

/-- `CLRERR`: `W STATUS, 0x4` (R99, R321). -/
def clrErr : HostProg Unit := busWrite Reg.status.offset 0x4

/-- `op!`: issue, wait, check (R99). -/
def runLine (l : Line) : HostProg Unit := do
  issue l
  wait
  check

/-- `HMAC kN, src, len, dst` (R99). -/
def hmacLines (k : Fin 4) (src len dst : Word) : HostProg Unit := do
  runLine (.hmacinit k)
  runLine (.hmacupd src len)
  runLine (.hmacfin dst)

/-- `R STATUS`, and stop when MATCH (bit 4) is 0 (R278, R283). -/
def needMatch : HostProg Unit := do
  let v ← readStatus
  if !v.getLsbD 4 then throw .mismatch

/-- `KEYZERO! all ; CTXCLEAR! ; SCRUB! 0, SCRATCH_BYTES` (R255, R280). -/
def cleanup : HostProg Unit := do
  runLine .keyzeroAll
  runLine .ctxclear
  runLine (.scrub 0 (BitVec.ofNat 32 (← get).params.scratchBytes))

/-- `if STATUS.ERR = 1: CLRERR`, then the cleanup (R280). -/
def recover : HostProg Unit := do
  let v ← readStatus
  if v.getLsbD 2 then clrErr
  cleanup

/-! ## The scratch layout of the procedures (R253, 46_decoder.md) -/

/-- The offset of the content buffer `CBUF`: 0x400, or 0x100 where scratch ends at 0x400 (log entry 8). -/
def cbufOffset (p : Params) : Nat := if p.scratchBytes ≤ 0x400 then 0x100 else 0x400

/-- `CBUF_BYTES`: the rest of scratch, 3072 for the default (R253). -/
def cbufBytes (p : Params) : Nat := p.scratchBytes - cbufOffset p

/-- A length as LEN's value. A count that does not fit 32 bits is far past every range check (R121), and
so is the largest value that fits. -/
def lenWord (n : Nat) : Word := BitVec.ofNat 32 (min n (2 ^ 32 - 1))

/-- A byte string in consecutive pieces of at most `size` bytes, `size > 0`. DESIGN CHOICE: every piece but the
last has `size` bytes, the longest allowed; R254 and R284 allow shorter ones (log entry 25). -/
def piecesUpTo (size : Nat) : Nat → Bytes → List Bytes
  | 0, _ => []
  | n + 1, s => if s.isEmpty then [] else s.take size :: piecesUpTo size n (s.drop size)

/-- A byte string in consecutive pieces of at most `CBUF_BYTES` bytes (R254, R284), as long as that allows
(log entry 25). -/
def cbufPieces (p : Params) (s : Bytes) : List Bytes := piecesUpTo (cbufBytes p) s.length s

end Sys2Proof.Machine
end

