-- ==== Sys2Proof/Machine/Decoder.lean ====
section
/-! DEFINITION. The decoder procedure (46_decoder.md), host protocol: a state machine of the host that
parses a container and drives the engine by the programs of Machine/HostBus.lean. -/

namespace Sys2Proof.Machine

/-- The decode error kinds (R271). -/
inductive DecError where
  | badFormat
  | unsupportedVersion
  | integrityError
  | invalidPadding
  | truncatedFile
  | engineFault
  deriving DecidableEq, Repr

/-- Their codes (R271). -/
def DecError.code : DecError → Nat
  | .badFormat => 1
  | .unsupportedVersion => 2
  | .integrityError => 3
  | .invalidPadding => 4
  | .truncatedFile => 5
  | .engineFault => 6

/-- The decoder's phase (R270). -/
inductive DecPhase where
  | header
  | extLen
  | extSkip (k : Nat)
  | credentials
  | content
  | done
  | failed (e : DecError)
  deriving DecidableEq, Repr

/-- The decoder's state `(phase, buf, password)`; no password is "erased" (R270). -/
structure Decoder where
  phase : DecPhase
  buf : Bytes
  password : Option (List (BitVec 16))
  deriving DecidableEq, Repr

/-- The start state (R270). -/
def Decoder.start (pw : List (BitVec 16)) : Decoder := ⟨.header, [], some pw⟩

/-- What an operation of the decoder returns (R270). -/
inductive DecResult where
  | ok (bytes : Bytes)
  | err (e : DecError)
  | refused
  deriving DecidableEq, Repr

/-- The decode error of a host program that stopped: a tag mismatch is IntegrityError (R278, R283), and
an engine error is EngineFault (R287). -/
def HostStop.decError : HostStop → DecError
  | .mismatch => .integrityError
  | .commandError => .engineFault
  | .noData => .engineFault

/-- `fail(e)` (R280): the engine is cleaned, the password and the buffer are erased, the failure is
terminal. -/
def decFail (e : DecError) (s : State) : DecResult × Decoder × State :=
  (.err e, ⟨.failed e, [], none⟩, HostProg.final recover s)

/-! ## The steps of `feed` -/

/-- `header_check(h)`: the magic first, then the version; byte 4 is not checked (R273). -/
def headerCheck (h : Bytes) : Option DecError :=
  if slice h 0 3 ≠ magic then some .badFormat
  else if h.getD 3 0 ≠ Config.formatVersion then some .unsupportedVersion
  else none

/-- The length field at the head of the buffer, big-endian (R274). -/
def extLength (buf : Bytes) : Nat := (buf.getD 0 0).toNat * 256 + (buf.getD 1 0).toNat

/-- `m`, the bytes a CONTENT step processes: the largest multiple of 16 that leaves at least 49 (R276). -/
def holdBack (n : Nat) : Nat := if n > 49 then 16 * ((n - 49) / 16) else 0

/-- `credentials(cb)` (R275, R283). The password is encoded and handed over here for the last time. -/
def credentialsProgram (cb : Bytes) (pw : List (BitVec 16)) : HostProg Unit := do
  writeScratchBytes 0x000 cb
  writeScratchBytes 0x100 (passwordBytes pw)
  runLine (.kdf 0 0x000 0x100 (lenWord pw.length))
  runLine (.scrub 0x100 (lenWord (2 * pw.length)))
  hmacLines 0 0x010 48 0x060
  runLine (.cmp 0x060 0x040 32)
  needMatch
  runLine (.ivload 0x000)
  runLine (.aesdec 0 0x010 0x010 48)
  runLine (.keyload 1 0x020)
  runLine (.ivload 0x010)
  runLine (.keyzero 0)
  runLine (.scrub 0x000 0x80)
  runLine (.hmacinit 1)

/-- One piece of content: into the MAC, then decrypted in place and read back (R284). -/
def decryptPiece (q : Bytes) : HostProg Bytes := do
  let cbuf := cbufOffset (← get).params
  writeScratchBytes cbuf q
  runLine (.hmacupd (lenWord cbuf) (lenWord q.length))
  runLine (.aesdec 1 (lenWord cbuf) (lenWord cbuf) (lenWord q.length))
  readScratchBytes cbuf q.length

/-- The pieces in order (R284). -/
def decryptPieces : List Bytes → HostProg Bytes
  | [] => pure []
  | q :: qs => do
    let p ← decryptPiece q
    let ps ← decryptPieces qs
    return p ++ ps

/-- `content(c)` (R284). -/
def contentProgram (c : Bytes) : HostProg Bytes := do
  decryptPieces (cbufPieces (← get).params c)

/-- The loop of `feed` (R272), at most `n` phases; a call with `n > |buf|` is the whole loop, since every
phase but the last consumes at least one byte. -/
def feedLoop : Nat → Decoder → State → DecResult × Decoder × State
  | 0, d, s => (.ok [], d, s)
  | n + 1, d, s =>
    match d.phase with
    | .header =>
      if d.buf.length < 5 then (.ok [], d, s)
      else match headerCheck (d.buf.take 5) with
        | some e => decFail e s
        | none => feedLoop n { d with buf := d.buf.drop 5, phase := .extLen } s
    | .extLen =>
      if d.buf.length < 2 then (.ok [], d, s)
      else
        let l := extLength d.buf
        feedLoop n { d with buf := d.buf.drop 2, phase := if l = 0 then .credentials else .extSkip l } s
    | .extSkip k =>
      if d.buf.isEmpty then (.ok [], d, s)
      else
        let j := min k d.buf.length
        feedLoop n { d with buf := d.buf.drop j, phase := if j = k then .extLen else .extSkip (k - j) } s
    | .credentials =>
      if d.buf.length < 96 then (.ok [], d, s)
      else match (credentialsProgram (d.buf.take 96) (d.password.getD [])).run s with
        | .ok _ t => feedLoop n ⟨.content, d.buf.drop 96, none⟩ t
        | .error e t => decFail e.decError t
    | .content =>
      let m := holdBack d.buf.length
      if m > 0 then
        match (contentProgram (d.buf.take m)).run s with
        | .ok out t => (.ok out, { d with buf := d.buf.drop m }, t)
        | .error e t => decFail e.decError t
      else (.ok [], d, s)
    | .done => (.ok [], d, s)
    | .failed _ => (.ok [], d, s)

/-- `feed(chunk)` (R272, R280, R288). -/
def decFeed (chunk : Bytes) (d : Decoder) (s : State) : DecResult × Decoder × State :=
  match d.phase with
  | .failed e => (.err e, d, s)
  | .done => (.refused, d, s)
  | .header | .extLen | .extSkip _ | .credentials | .content =>
    feedLoop ((d.buf ++ chunk).length + 1) { d with buf := d.buf ++ chunk } s

/-! ## End of input -/

/-- The engine program of `final(F, v, E)` up to its tag check (R278). -/
def finalCheck (f tag : Bytes) : HostProg Unit := do
  writeScratchBytes 0x080 f
  writeScratchBytes 0x0A0 tag
  runLine (.hmacupd 0x080 16)
  runLine (.hmacfin 0x060)
  runLine (.cmp 0x060 0x0A0 32)
  needMatch

/-- The engine program of `final(F, v, E)` after both checks (R278, R279). -/
def finalBlock (v : Nat) : HostProg Bytes := do
  runLine (.aesdec 1 0x080 0x080 16)
  let p ← readScratchBytes 0x080 16
  return p.take v

/-- `final(F, v, E)` and the end of the stream: the tag first, then `v <= 16` (R277 to R279, R289). -/
def decFinal (f : Bytes) (v : Byte) (tag : Bytes) (s : State) : DecResult × Decoder × State :=
  match (finalCheck f tag).run s with
  | .error e t => decFail e.decError t
  | .ok _ t =>
    if v.toNat > 16 then decFail .invalidPadding t
    else match (do let out ← finalBlock v.toNat; cleanup; return out : HostProg Bytes).run t with
      | .error e u => decFail e.decError u
      | .ok out u => (.ok out, ⟨.done, [], none⟩, u)

/-- `finish()` (R277, R280, R288). -/
def decFinish (d : Decoder) (s : State) : DecResult × Decoder × State :=
  match d.phase with
  | .failed e => (.err e, d, s)
  | .done => (.ok [], d, s)
  | .header | .extLen | .extSkip _ | .credentials => decFail .truncatedFile s
  | .content =>
    if d.buf.length < 49 then decFail .truncatedFile s
    else if d.buf.length > 49 then decFail .integrityError s
    else decFinal (slice d.buf 0 16) (d.buf.getD 16 0) (slice d.buf 17 49) s

end Sys2Proof.Machine
end

