-- ==== Sys2Proof/Machine/Encoder.lean ====
section
/-! DEFINITION. The encoder procedure (45_encoder.md), host protocol: a state machine of the host that
drives the engine by the programs of Machine/HostBus.lean. -/

namespace Sys2Proof.Machine

/-- The encoder's phase (R250). `aborted` is the model's name for a stream that a failure has ended (R252,
R258; log entry 9). -/
inductive EncPhase where
  | uninitialized
  | streaming
  | finalized
  | aborted
  deriving DecidableEq, Repr

/-- The encoder's state `(phase, password, total, rem)` (R250). The password is gone once the stream has
started (R253). -/
structure Encoder where
  phase : EncPhase
  password : Option (List (BitVec 16))
  total : Nat
  rem : Bytes
  deriving DecidableEq, Repr

/-- The encoder at construction (R250). -/
def Encoder.start (pw : List (BitVec 16)) : Encoder := ⟨.uninitialized, some pw, 0, []⟩

/-- What an operation of the encoder returns. -/
inductive EncResult where
  /-- The bytes emitted. -/
  | emitted (bytes : Bytes)
  /-- A caller error: nothing emitted, nothing changed (R257). -/
  | refused
  /-- The stream has failed: nothing emitted (R252, R258). -/
  | aborted
  deriving DecidableEq, Repr

/-- The engine program of R253: it returns the CredentialsBlock and leaves the engine ready to stream. -/
def enterProgram (pw : List (BitVec 16)) (d : Draws) : HostProg Bytes := do
  writeScratchBytes 0x000 d.credIV.toList
  writeScratchBytes 0x010 (d.sessionIV.toList ++ d.sessionKey.toList)
  writeScratchBytes 0x100 (passwordBytes pw)
  runLine (.kdf 0 0x000 0x100 (lenWord pw.length))
  runLine (.keyload 1 0x020)
  runLine (.ivload 0x000)
  runLine (.aesenc 0 0x010 0x040 48)
  hmacLines 0 0x040 48 0x070
  let credIV ← readScratchBytes 0x000 16
  let payload ← readScratchBytes 0x040 48
  let tag ← readScratchBytes 0x070 32
  runLine (.keyzero 0)
  runLine (.scrub 0x100 (lenWord (2 * pw.length)))
  runLine (.ivload 0x010)
  runLine (.scrub 0x010 48)
  runLine (.hmacinit 1)
  return credIV ++ payload ++ tag

/-- One piece of content encrypted, added to the MAC and read back (R254). -/
def encryptPiece (q : Bytes) : HostProg Bytes := do
  let cbuf := cbufOffset (← get).params
  writeScratchBytes cbuf q
  runLine (.aesenc 1 (lenWord cbuf) (lenWord cbuf) (lenWord q.length))
  runLine (.hmacupd (lenWord cbuf) (lenWord q.length))
  readScratchBytes cbuf q.length

/-- The pieces in order (R254). -/
def encryptPieces : List Bytes → HostProg Bytes
  | [] => pure []
  | q :: qs => do
    let c ← encryptPiece q
    let cs ← encryptPieces qs
    return c ++ cs

/-- The engine program of R255: the final block, then the tag, then the erasure. -/
def finishProgram (block : Bytes) (r : Nat) : HostProg Bytes := do
  let cbuf := cbufOffset (← get).params
  writeScratchBytes cbuf block
  runLine (.aesenc 1 (lenWord cbuf) (lenWord cbuf) 16)
  runLine (.hmacupd (lenWord cbuf) 16)
  runLine (.hmacfin 0x0A0)
  let c ← readScratchBytes cbuf 16
  let tag ← readScratchBytes 0x0A0 32
  cleanup
  return c ++ [BitVec.ofNat 8 r] ++ tag

/-- The end of a failed stream: the engine is erased "as in rule R255's last line" (R258). DESIGN CHOICE: the
same erasure runs after a failure of the random source, of which R252 and R258 say only that it is fatal,
aborts the stream and is reported (log entry 24). -/
def encAbort (e : Encoder) (s : State) : EncResult × Encoder × State :=
  (.aborted, { e with phase := .aborted, password := none, rem := [] }, HostProg.final recover s)

/-- Entering STREAMING (R252, R253): `draws = none` is a failure of the random source. On success it gives
the bytes emitted. DESIGN CHOICE: that failure erases the engine too (log entry 24). -/
def encEnter (creator : Bytes) (draws : Option Draws) (e : Encoder) (s : State) :
    Except (EncResult × Encoder × State) (Bytes × Encoder × State) :=
  match draws, e.password with
  | some d, some pw =>
    match (enterProgram pw d).run s with
    | .ok cred t => .ok (fileHeader ++ extensionSection creator ++ cred, ⟨.streaming, none, 0, []⟩, t)
    | .error _ t => .error (encAbort e t)
  | _, _ => .error (encAbort e s)

/-- `feed(chunk)` in STREAMING (R254), after `head`. DESIGN CHOICE: on an engine error the call emits nothing at
all, neither `head` nor the pieces it had already encrypted; R258's "nothing further" does not speak of them
(log entry 23). -/
def encStream (head chunk : Bytes) (e : Encoder) (s : State) : EncResult × Encoder × State :=
  let data := e.rem ++ chunk
  let m := 16 * (data.length / 16)
  match (encryptPieces (cbufPieces s.params (data.take m))).run s with
  | .ok c t => (.emitted (head ++ c), { e with total := e.total + chunk.length, rem := data.drop m }, t)
  | .error _ t => encAbort e t

/-- `feed(chunk)` (R251, R254, R257). -/
def encFeed (creator : Bytes) (draws : Option Draws) (chunk : Bytes) (e : Encoder) (s : State) :
    EncResult × Encoder × State :=
  match e.phase with
  | .uninitialized =>
    if chunk.isEmpty then (.emitted [], e, s)
    else match encEnter creator draws e s with
      | .ok (head, e', t) => encStream head chunk e' t
      | .error r => r
  | .streaming => encStream [] chunk e s
  | .finalized => (.refused, e, s)
  | .aborted => (.aborted, e, s)

/-- `finish()` in STREAMING (R255), after `head`. DESIGN CHOICE: on an engine error the call emits nothing at all,
not even `head` (R258; log entry 23). -/
def encFinal (head : Bytes) (e : Encoder) (s : State) : EncResult × Encoder × State :=
  let r := e.total % 16
  let p := 16 - r
  match (finishProgram (e.rem ++ rep p (BitVec.ofNat 8 p)) r).run s with
  | .ok out t => (.emitted (head ++ out), { e with phase := .finalized, rem := [] }, t)
  | .error _ t => encAbort e t

/-- `finish()` (R255, R256). -/
def encFinish (creator : Bytes) (draws : Option Draws) (e : Encoder) (s : State) :
    EncResult × Encoder × State :=
  match e.phase with
  | .uninitialized =>
    match encEnter creator draws e s with
    | .ok (head, e', t) => encFinal head e' t
    | .error r => r
  | .streaming => encFinal [] e s
  | .finalized => (.emitted [], e, s)
  | .aborted => (.aborted, e, s)

end Sys2Proof.Machine
end

