-- ==== Sys2Proof/Machine/Work.lean ====
section
/-! DEFINITION. The work of a command (70_reset_and_hazards.md R355). It sizes an implementation and is "not
observable": no step reads it. -/

namespace Sys2Proof.Machine

/-- The parts of a command's work that R355 counts. -/
structure Work where
  compressions : Nat
  aesBlocks : Nat
  byteOps : Nat
  deriving DecidableEq, Repr

/-- `blocks(m)`: the SHA-256 compressions of an `m`-byte message (R355). -/
def shaBlockCount (m : Nat) : Nat := (m + 8) / 64 + 1

/-- The HMAC-SHA256 compressions of an `m`-byte message (R355). -/
def hmacCompressions (m : Nat) : Nat := shaBlockCount (64 + m) + shaBlockCount 96

/-- The work of the latched command run as `i` (R355). The compressions of an HMAC are counted at its
HMACFIN, where the message is whole; a constant amount is 0. -/
def State.work (i : Instr) (s : State) : Work :=
  match i with
  | .kdf _ => ⟨Config.kdfRounds * shaBlockCount (32 + s.passwordLen), 0, 0⟩
  | .aesenc _ => ⟨0, s.lenCount / 16, 0⟩
  | .aesdec _ => ⟨0, s.lenCount / 16, 0⟩
  | .hmacfin => ⟨hmacCompressions s.engine.hctx.msgLength, 0, 0⟩
  | .cmp => ⟨0, 0, s.lenCount⟩
  | .scrub => ⟨0, 0, s.lenCount⟩
  | .nop => ⟨0, 0, 0⟩
  | .keyload _ => ⟨0, 0, 0⟩
  | .keyzero _ => ⟨0, 0, 0⟩
  | .keyzeroAll => ⟨0, 0, 0⟩
  | .ivload => ⟨0, 0, 0⟩
  | .ivstore => ⟨0, 0, 0⟩
  | .hmacinit _ => ⟨0, 0, 0⟩
  | .hmacupd => ⟨0, 0, 0⟩
  | .ctxclear => ⟨0, 0, 0⟩

end Sys2Proof.Machine
end

