-- ==== Sys2Proof/Safety.lean ====
section
/-! DEFINITION. The terms the statements use: the invariant the spec's rules give, what a completed or
failed command leaves unchanged, the table of checks of 60_exceptions.md R315, and what two runs may
differ in without the host seeing it. -/

namespace Sys2Proof.Machine

/-- The invariant of the machine, clause by clause. -/
structure State.Inv (s : State) : Prop where
  /-- Scratch keeps its canonical form. -/
  scrWf : s.engine.scr.wf = true
  /-- Scratch holds `SCRATCH_BYTES` bytes (R36). -/
  scrInside : s.engine.scr.inside s.params.scratchBytes = true
  /-- "At most one of DONE and ERR is 1" (R26). -/
  doneOrErr : s.engine.status.done = true → s.engine.status.err = false
  /-- "ERRCODE is non-zero exactly when ERR is 1" (R26). -/
  errcode : s.engine.status.errcode ≠ 0x00 ↔ s.engine.status.err = true
  /-- ERRCODE values 0x08 to 0xFF are never produced (R311, U12). -/
  errcodeKnown : s.engine.status.errcode.toNat ≤ 0x07
  /-- While BUSY = 1, DONE, ERR and MATCH are 0 (R29, R312, R322). -/
  busyFlags : s.engine.status.busy = true →
    s.engine.status.done = false ∧ s.engine.status.err = false ∧ s.engine.status.matched = false
  /-- While BUSY = 1, CUR holds what CMD and the operand registers hold (R29, R31, R74). -/
  busyCur : s.engine.status.busy = true →
    s.engine.cur = ⟨s.engine.cmd, s.engine.src, s.engine.dst, s.engine.len, s.engine.aux⟩
  /-- While BUSY = 0 there is no latched command (R20, R41). -/
  idleCur : s.engine.status.busy = false → s.engine.cur = Latched.none ∧ s.delay = 0
  /-- An invalid key slot holds `0^32` (R33, R201, R41). -/
  slotCleared : ∀ k : Fin 4, s.engine.ks[k].valid = false → s.engine.ks[k] = KeySlot.cleared
  /-- An invalid CHAIN holds `0^16` (R34, R203, R41). -/
  chainCleared : s.engine.chain.valid = false → s.engine.chain = Chain.cleared
  /-- `|msg| <= HMAC_MAX_MSG` always holds (R35). -/
  hmacBound : s.engine.hctx.msgLength ≤ Config.hmacMaxMsg
  /-- While the reset input is asserted the engine is in its reset state (R340, R341). -/
  heldReset : s.resetHeld = true → s.engine = Engine.reset

/-! ## Frames of a completion step -/

/-- `t` reads every scratch byte as `s` does. -/
def SameScratch (s t : State) : Prop := ∀ a, t.engine.scr.read a = s.engine.scr.read a

/-- `t` reads every scratch byte outside `[off, off + n)` as `s` does. -/
def SameScratchOutside (s t : State) (off n : Nat) : Prop :=
  ∀ a, ¬(off ≤ a ∧ a < off + n) → t.engine.scr.read a = s.engine.scr.read a

/-- What no completion changes: everything that is not the engine's, CTRL, CMD, the operand registers and
OVR (R21, R30, R39). And what every completion does: `BUSY <- 0` (R37), and with it CUR is gone (R20). -/
structure CommandFrame (s t : State) : Prop where
  params : t.params = s.params
  resetHeld : t.resetHeld = s.resetHeld
  delay : t.delay = s.delay
  latencyDraws : t.latencyDraws = s.latencyDraws
  readDraws : t.readDraws = s.readDraws
  queue : t.queue = s.queue
  response : t.response = s.response
  ctrl : t.engine.ctrl = s.engine.ctrl
  cmd : t.engine.cmd = s.engine.cmd
  src : t.engine.src = s.engine.src
  dst : t.engine.dst = s.engine.dst
  len : t.engine.len = s.engine.len
  aux : t.engine.aux = s.engine.aux
  ovr : t.engine.status.ovr = s.engine.status.ovr
  busy : t.engine.status.busy = false
  cur : t.engine.cur = Latched.none

/-- A completion with success: `DONE <- 1`, ERR and ERRCODE as before (R37, R39). -/
structure Succeeds (s t : State) : Prop where
  frame : CommandFrame s t
  done : t.engine.status.done = true
  err : t.engine.status.err = s.engine.status.err
  errcode : t.engine.status.errcode = s.engine.status.errcode

/-- A completion with command error `c`: `ERR <- 1; ERRCODE <- c`, and no key slot, CHAIN bit, HCTX, scratch
byte, DONE or MATCH changes (R312). -/
structure Fails (c : CmdError) (s t : State) : Prop where
  frame : CommandFrame s t
  err : t.engine.status.err = true
  errcode : t.engine.status.errcode = c.code
  done : t.engine.status.done = s.engine.status.done
  matched : t.engine.status.matched = s.engine.status.matched
  ks : t.engine.ks = s.engine.ks
  chain : t.engine.chain = s.engine.chain
  hctx : t.engine.hctx = s.engine.hctx
  scratch : SameScratch s t

/-! ## AES streams -/

/-- Every check of AESENC and AESDEC with slot `k` passes (R173, R174), scratch is in canonical form, and the
destination does not start inside the source after its start: R175's first two cases. -/
structure AesReady (k : Fin 4) (s : State) : Prop where
  scrWf : s.engine.scr.wf = true
  srcRange : s.engine.cur.src.toNat + s.engine.cur.len.toNat ≤ s.params.scratchBytes
  dstRange : s.engine.cur.dst.toNat + s.engine.cur.len.toNat ≤ s.params.scratchBytes
  wholeBlocks : s.engine.cur.len.toNat % 16 = 0
  keyValid : s.engine.ks[k].valid = true
  chainValid : s.engine.chain.valid = true
  noOverlap : s.engine.cur.dst.toNat ≤ s.engine.cur.src.toNat ∨
    s.engine.cur.src.toNat + s.engine.cur.len.toNat ≤ s.engine.cur.dst.toNat

/-- The blocks that stand in `m` at the latched source of `s` (R173, R174). -/
def sourceBlocks (s : State) (m : Memory) : List Block :=
  (List.range (s.engine.cur.len.toNat / 16)).map fun i => m.readVec (s.engine.cur.src.toNat + 16 * i) 16

/-- The blocks that stand in `m` at the latched destination of `s` (R173, R174). -/
def destBlocks (s : State) (m : Memory) : List Block :=
  (List.range (s.engine.cur.len.toNat / 16)).map fun i => m.readVec (s.engine.cur.dst.toNat + 16 * i) 16

/-! ## The checks of each command -/

/-- R315's table, row by row: the checks a command makes, in order, each with the error it raises and
whether the state passes it. ILLEGAL_CMD is the decoder's. -/
def checks (i : Instr) (s : State) : List (CmdError × Bool) :=
  let src := s.engine.cur.src.toNat
  let dst := s.engine.cur.dst.toNat
  let aux := s.engine.cur.aux.toNat
  let len := s.engine.cur.len.toNat
  let fits (off n : Nat) : Bool := decide (off + n ≤ s.params.scratchBytes)
  match i with
  | .nop => []
  | .kdf _ => [(.badRange, fits src 16), (.badRange, fits aux (2 * len))]
  | .keyload _ => [(.badRange, fits src 32)]
  | .keyzero _ => []
  | .keyzeroAll => []
  | .ivload => [(.badRange, fits src 16)]
  | .ivstore => [(.badRange, fits dst 16), (.ivNotLoaded, s.engine.chain.valid)]
  | .aesenc k =>
    [(.badRange, fits src len), (.badRange, fits dst len), (.badLength, decide (len % 16 = 0)),
      (.keyNotLoaded, s.engine.ks[k].valid), (.ivNotLoaded, s.engine.chain.valid)]
  | .aesdec k =>
    [(.badRange, fits src len), (.badRange, fits dst len), (.badLength, decide (len % 16 = 0)),
      (.keyNotLoaded, s.engine.ks[k].valid), (.ivNotLoaded, s.engine.chain.valid)]
  | .hmacinit k => [(.keyNotLoaded, s.engine.ks[k].valid)]
  | .hmacupd =>
    [(.badRange, fits src len), (.noHmacContext, s.engine.hctx.isActive),
      (.hmacLengthOverflow, decide (s.engine.hctx.msgLength + len ≤ 2 ^ 61 - 65))]
  | .hmacfin => [(.badRange, fits dst 32), (.noHmacContext, s.engine.hctx.isActive)]
  | .cmp => [(.badRange, fits src len), (.badRange, fits aux len)]
  | .scrub => [(.badRange, fits dst len)]
  | .ctxclear => []

/-- The error of the first check that fails (R314). -/
def firstError (i : Instr) (s : State) : Option CmdError :=
  ((checks i s).find? fun x => !x.2).map Prod.fst

/-! ## The host's accesses by bus offset -/

/-- A 32-bit host read at a bus offset. -/
def hostRead (off : Nat) (s : State) : State := busAccess (.read .w32 (s.params.engineBase + off)) s

/-- A 32-bit host write at a bus offset. -/
def hostWrite (off : Nat) (v : Word) (s : State) : State :=
  busAccess (.write .w32 (s.params.engineBase + off) v) s

/-- The event is a reset: the reset input's assertion, or a write to CTRL with bit 31 set (R340). -/
def isReset (p : Params) : Event → Bool
  | .resetInput asserted => asserted
  | .access (.write w a v) => w == .w32 && a == p.engineBase + 0x008 && v.getLsbD 31
  | .access (.read _ _) => false
  | .idle => false

/-! ## What the host cannot see -/

/-- Two contexts alike but for the key and the message's bytes (R356). -/
def Hctx.sameShape : Hctx → Hctx → Prop
  | .none, .none => True
  | .active _ m, .active _ n => m.length = n.length
  | .none, .active _ _ => False
  | .active _ _, .none => False

/-- Two contexts alike but for the key (R33). -/
def Hctx.sameMessage : Hctx → Hctx → Prop
  | .none, .none => True
  | .active _ m, .active _ n => m = n
  | .none, .active _ _ => False
  | .active _ _, .none => False

/-- Two states that differ at most in scratch contents, key values, the CHAIN value, the HMAC key and
message bytes, MATCH, and what the bus last answered: the data of which "the number of steps from
acceptance to completion" never depends (R356). -/
structure TimingAlike (s t : State) : Prop where
  params : s.params = t.params
  resetHeld : s.resetHeld = t.resetHeld
  delay : s.delay = t.delay
  latencyDraws : s.latencyDraws = t.latencyDraws
  readDraws : s.readDraws = t.readDraws
  queue : s.queue = t.queue
  ctrl : s.engine.ctrl = t.engine.ctrl
  busy : s.engine.status.busy = t.engine.status.busy
  done : s.engine.status.done = t.engine.status.done
  err : s.engine.status.err = t.engine.status.err
  ovr : s.engine.status.ovr = t.engine.status.ovr
  errcode : s.engine.status.errcode = t.engine.status.errcode
  cmd : s.engine.cmd = t.engine.cmd
  src : s.engine.src = t.engine.src
  dst : s.engine.dst = t.engine.dst
  len : s.engine.len = t.engine.len
  aux : s.engine.aux = t.engine.aux
  keyValid : ∀ k : Fin 4, s.engine.ks[k].valid = t.engine.ks[k].valid
  ivValid : s.engine.chain.valid = t.engine.chain.valid
  hctx : s.engine.hctx.sameShape t.engine.hctx
  cur : s.engine.cur = t.engine.cur

/-- Two states that differ at most in the values of the key slots and in the key of the HMAC context: the
secrets that have no bus address (R33, R124). -/
structure KeysAlike (s t : State) : Prop where
  params : s.params = t.params
  resetHeld : s.resetHeld = t.resetHeld
  delay : s.delay = t.delay
  latencyDraws : s.latencyDraws = t.latencyDraws
  readDraws : s.readDraws = t.readDraws
  queue : s.queue = t.queue
  response : s.response = t.response
  ctrl : s.engine.ctrl = t.engine.ctrl
  status : s.engine.status = t.engine.status
  cmd : s.engine.cmd = t.engine.cmd
  src : s.engine.src = t.engine.src
  dst : s.engine.dst = t.engine.dst
  len : s.engine.len = t.engine.len
  aux : s.engine.aux = t.engine.aux
  keyValid : ∀ k : Fin 4, s.engine.ks[k].valid = t.engine.ks[k].valid
  chain : s.engine.chain = t.engine.chain
  hctx : s.engine.hctx.sameMessage t.engine.hctx
  scr : s.engine.scr = t.engine.scr
  cur : s.engine.cur = t.engine.cur

end Sys2Proof.Machine
end

