-- ==== Sys2Proof/Certificates/Slice0/Obligations.lean ====
section
/-! DEFINITION. The statements for the provers. -/

open Sys2Proof Sys2Proof.Machine

/-! ## Encoding -/

/-- R92, R100: the decoder reads back every instruction the encoder writes, and a word it reads as an
instruction is that instruction's one encoding. -/
def Obligations.DecodeEncodeAgree : Prop :=
  (∀ i : Instr, i.wellFormed = true → decodeWord (encode i) = .ok i) ∧
  (∀ (w : Word) (i : Instr), decodeWord w = .ok i → encode i = w) ∧
  (∀ w : Word, decode (bytesOfWord w) = decodeWord w)

/-- R94: `legal(w)` holds exactly when `w` matches a row of R92's match and mask table. -/
def Obligations.LegalIffMatchesARow : Prop :=
  ∀ w : Word, legal w = true ↔ ∃ r ∈ formTable, r.matches w = true

/-- R92: "the forms are disjoint and every word matches at most one". -/
def Obligations.FormsAreDisjoint : Prop :=
  formTable.Pairwise fun r q => ∀ w : Word, r.matches w = true → q.matches w = false

/-- R94, R95: the decoder reads an instruction from the legal words and from no other. -/
def Obligations.DecodesExactlyTheLegalWords : Prop :=
  ∀ w : Word, (∃ i, decodeWord w = .ok i) ↔ legal w = true

/-- Words written out from R92 and R100, with the instructions they stand for, and R316's illegal words. -/
def Obligations.SampleWordsDecode : Prop :=
  decodeWord 0x00000000 = .ok .nop ∧ decodeWord 0x00000301 = .ok (.kdf 3) ∧
  decodeWord 0x00000106 = .ok (.aesenc 1) ∧ decodeWord 0x00000303 = .ok (.keyzero 3) ∧
  decodeWord 0x00000403 = .ok .keyzeroAll ∧ decodeWord 0x0000000D = .ok .ctxclear ∧
  decodeWord 0x00000104 = .error .slotNotAllowed ∧ decodeWord 0x0000000E = .error .reservedOpcode ∧
  decodeWord 0x00000800 = .error .reservedBits ∧ decodeWord 0x00000503 = .error .slotNotAllowed

/-! ## The step -/

/-- R37: when the command in flight is due and its word decodes to `i`, the step is `exec i`, and nothing
around it. -/
def Obligations.StepRunsDecodedCommand : Prop :=
  ∀ (s : State) (i : Instr), s.engine.status.busy = true → s.delay = 0 →
    decodeWord s.engine.cur.word = .ok i → step s = exec i s

/-- R95, R312: a due command whose word is illegal completes with ILLEGAL_CMD and changes nothing else. -/
def Obligations.IllegalWordCompletesWithIllegalCmd : Prop :=
  ∀ s : State, s.engine.status.busy = true → s.delay = 0 → legal s.engine.cur.word = false →
    ∃ t, step s = .next t ∧ Fails .illegalCmd s t

/-- R357, R310: no step stops the machine; every step has a next state. -/
def Obligations.StepNeverStops : Prop := ∀ s : State, ∃ t, step s = .next t

/-- R70, R357: when no command is due the step serves the host's next event. That the
host's events stand in a queue of the state is the model's (log entry 6), and so is the tick: each served
event takes one step from the latency left of a command in flight (log entry 4). -/
def Obligations.StepServesNextEvent : Prop :=
  ∀ (s : State) (ev : Event) (rest : List Event), s.due = false → s.queue = ev :: rest →
    step s = .next (applyEvent ev { s.tick with queue := rest })

/-- Every step keeps the invariant, from every state that has it. Its clause on CUR while BUSY = 0 is the
model's (log entry 5). -/
def Obligations.StepKeepsInv : Prop := ∀ s t : State, s.Inv → step s = .next t → t.Inv

/-- The state after reset has the invariant, for every choice of the parameters. -/
def Obligations.ResetHasInv : Prop := ∀ p : Params, (State.resetWith p).Inv

/-! ## What each command does -/

/-- R200. -/
def Obligations.NopCompletes : Prop :=
  ∀ s : State, ∃ t, exec .nop s = .next t ∧ Succeeds s t ∧
    t.engine.status.matched = s.engine.status.matched ∧ t.engine.ks = s.engine.ks ∧
    t.engine.chain = s.engine.chain ∧ t.engine.hctx = s.engine.hctx ∧ SameScratch s t

/-- R121: the destination slot becomes the derived key, valid; nothing else changes. -/
def Obligations.KdfWritesDerivedKey : Prop :=
  ∀ (k : Fin 4) (s : State),
    s.engine.cur.src.toNat + 16 ≤ s.params.scratchBytes →
    s.engine.cur.aux.toNat + 2 * s.engine.cur.len.toNat ≤ s.params.scratchBytes →
    ∃ t, exec (.kdf k) s = .next t ∧ Succeeds s t ∧
      t.engine.ks[k] = ⟨kdf (s.engine.scr.readVec s.engine.cur.src.toNat 16)
        (s.engine.scr.readBytes s.engine.cur.aux.toNat (2 * s.engine.cur.len.toNat)), true⟩ ∧
      (∀ j : Fin 4, j ≠ k → t.engine.ks[j] = s.engine.ks[j]) ∧
      t.engine.status.matched = s.engine.status.matched ∧ t.engine.chain = s.engine.chain ∧
      t.engine.hctx = s.engine.hctx ∧ SameScratch s t

/-- R170: the destination slot becomes the 32 scratch bytes, valid; nothing else changes. -/
def Obligations.KeyloadCopiesScratch : Prop :=
  ∀ (k : Fin 4) (s : State), s.engine.cur.src.toNat + 32 ≤ s.params.scratchBytes →
    ∃ t, exec (.keyload k) s = .next t ∧ Succeeds s t ∧ t.engine.ks[k].valid = true ∧
      (∀ i : Fin 32, t.engine.ks[k].value[i] = s.engine.scr.read (s.engine.cur.src.toNat + i)) ∧
      (∀ j : Fin 4, j ≠ k → t.engine.ks[j] = s.engine.ks[j]) ∧
      t.engine.status.matched = s.engine.status.matched ∧ t.engine.chain = s.engine.chain ∧
      t.engine.hctx = s.engine.hctx ∧ SameScratch s t

/-- R201: one slot is erased, or all four; nothing else changes. -/
def Obligations.KeyzeroErasesSlots : Prop :=
  (∀ (k : Fin 4) (s : State), ∃ t, exec (.keyzero k) s = .next t ∧ Succeeds s t ∧
      t.engine.ks[k] = ⟨Vector.replicate 32 0, false⟩ ∧
      (∀ j : Fin 4, j ≠ k → t.engine.ks[j] = s.engine.ks[j]) ∧
      t.engine.status.matched = s.engine.status.matched ∧ t.engine.chain = s.engine.chain ∧
      t.engine.hctx = s.engine.hctx ∧ SameScratch s t) ∧
  (∀ s : State, ∃ t, exec .keyzeroAll s = .next t ∧ Succeeds s t ∧
      (∀ j : Fin 4, t.engine.ks[j] = ⟨Vector.replicate 32 0, false⟩) ∧
      t.engine.status.matched = s.engine.status.matched ∧ t.engine.chain = s.engine.chain ∧
      t.engine.hctx = s.engine.hctx ∧ SameScratch s t)

/-- R171: CHAIN becomes the 16 scratch bytes, valid; nothing else changes. -/
def Obligations.IvloadCopiesScratch : Prop :=
  ∀ s : State, s.engine.cur.src.toNat + 16 ≤ s.params.scratchBytes →
    ∃ t, exec .ivload s = .next t ∧ Succeeds s t ∧ t.engine.chain.valid = true ∧
      (∀ i : Fin 16, t.engine.chain.value[i] = s.engine.scr.read (s.engine.cur.src.toNat + i)) ∧
      t.engine.status.matched = s.engine.status.matched ∧ t.engine.ks = s.engine.ks ∧
      t.engine.hctx = s.engine.hctx ∧ SameScratch s t

/-- R172: the 16 destination bytes become CHAIN's value; CHAIN and everything else is unchanged. -/
def Obligations.IvstoreCopiesChain : Prop :=
  ∀ s : State, s.engine.scr.wf = true → s.engine.cur.dst.toNat + 16 ≤ s.params.scratchBytes →
    s.engine.chain.valid = true →
    ∃ t, exec .ivstore s = .next t ∧ Succeeds s t ∧
      (∀ i : Fin 16, t.engine.scr.read (s.engine.cur.dst.toNat + i) = s.engine.chain.value[i]) ∧
      SameScratchOutside s t s.engine.cur.dst.toNat 16 ∧
      t.engine.status.matched = s.engine.status.matched ∧ t.engine.ks = s.engine.ks ∧
      t.engine.chain = s.engine.chain ∧ t.engine.hctx = s.engine.hctx

/-- R173, R175: for every overlap of the ranges AESENC leaves what R173's loop over the blocks computes,
block `i` from the scratch that blocks `0..i-1` left; nothing outside the destination range changes. -/
def Obligations.AesencRunsBlockLoop : Prop :=
  ∀ (k : Fin 4) (s : State), s.engine.scr.wf = true →
    s.engine.cur.src.toNat + s.engine.cur.len.toNat ≤ s.params.scratchBytes →
    s.engine.cur.dst.toNat + s.engine.cur.len.toNat ≤ s.params.scratchBytes →
    s.engine.cur.len.toNat % 16 = 0 → s.engine.ks[k].valid = true → s.engine.chain.valid = true →
    ∃ t, exec (.aesenc k) s = .next t ∧ Succeeds s t ∧
      (let r := (List.range (s.engine.cur.len.toNat / 16)).foldl
        (fun x i => encBlock s.engine.ks[k].value (s.engine.cur.src.toNat + 16 * i)
          (s.engine.cur.dst.toNat + 16 * i) x) ⟨s.engine.scr, s.engine.chain.value⟩
       t.engine.scr = r.scr ∧ t.engine.chain = ⟨r.chain, true⟩) ∧
      SameScratchOutside s t s.engine.cur.dst.toNat s.engine.cur.len.toNat ∧
      t.engine.status.matched = s.engine.status.matched ∧ t.engine.ks = s.engine.ks ∧
      t.engine.hctx = s.engine.hctx

/-- R174, R175: the same for AESDEC. -/
def Obligations.AesdecRunsBlockLoop : Prop :=
  ∀ (k : Fin 4) (s : State), s.engine.scr.wf = true →
    s.engine.cur.src.toNat + s.engine.cur.len.toNat ≤ s.params.scratchBytes →
    s.engine.cur.dst.toNat + s.engine.cur.len.toNat ≤ s.params.scratchBytes →
    s.engine.cur.len.toNat % 16 = 0 → s.engine.ks[k].valid = true → s.engine.chain.valid = true →
    ∃ t, exec (.aesdec k) s = .next t ∧ Succeeds s t ∧
      (let r := (List.range (s.engine.cur.len.toNat / 16)).foldl
        (fun x i => decBlock s.engine.ks[k].value (s.engine.cur.src.toNat + 16 * i)
          (s.engine.cur.dst.toNat + 16 * i) x) ⟨s.engine.scr, s.engine.chain.value⟩
       t.engine.scr = r.scr ∧ t.engine.chain = ⟨r.chain, true⟩) ∧
      SameScratchOutside s t s.engine.cur.dst.toNat s.engine.cur.len.toNat ∧
      t.engine.status.matched = s.engine.status.matched ∧ t.engine.ks = s.engine.ks ∧
      t.engine.hctx = s.engine.hctx

/-- R175, R16: unless the destination starts inside the source range after its start, AESENC writes
`cbc_enc` of the bytes that stood in the source before it, and CHAIN ends as the last ciphertext block. -/
def Obligations.AesencIsCbcEncryption : Prop :=
  ∀ (k : Fin 4) (s : State), s.engine.scr.wf = true →
    s.engine.cur.src.toNat + s.engine.cur.len.toNat ≤ s.params.scratchBytes →
    s.engine.cur.dst.toNat + s.engine.cur.len.toNat ≤ s.params.scratchBytes →
    s.engine.cur.len.toNat % 16 = 0 → s.engine.ks[k].valid = true → s.engine.chain.valid = true →
    (s.engine.cur.dst.toNat ≤ s.engine.cur.src.toNat ∨
      s.engine.cur.src.toNat + s.engine.cur.len.toNat ≤ s.engine.cur.dst.toNat) →
    ∃ t, exec (.aesenc k) s = .next t ∧
      (let n := s.engine.cur.len.toNat / 16
       let plain := (List.range n).map fun i => s.engine.scr.readVec (s.engine.cur.src.toNat + 16 * i) 16
       let out := cbcEnc s.engine.ks[k].value s.engine.chain.value plain
       (List.range n).map (fun i => t.engine.scr.readVec (s.engine.cur.dst.toNat + 16 * i) 16) = out ∧
       t.engine.chain.value = out.getLastD s.engine.chain.value)

/-- R175, R16: under the same condition AESDEC writes `cbc_dec` of the bytes that stood in the source, and
CHAIN ends as the last ciphertext block read. -/
def Obligations.AesdecIsCbcDecryption : Prop :=
  ∀ (k : Fin 4) (s : State), s.engine.scr.wf = true →
    s.engine.cur.src.toNat + s.engine.cur.len.toNat ≤ s.params.scratchBytes →
    s.engine.cur.dst.toNat + s.engine.cur.len.toNat ≤ s.params.scratchBytes →
    s.engine.cur.len.toNat % 16 = 0 → s.engine.ks[k].valid = true → s.engine.chain.valid = true →
    (s.engine.cur.dst.toNat ≤ s.engine.cur.src.toNat ∨
      s.engine.cur.src.toNat + s.engine.cur.len.toNat ≤ s.engine.cur.dst.toNat) →
    ∃ t, exec (.aesdec k) s = .next t ∧
      (let n := s.engine.cur.len.toNat / 16
       let cipher := (List.range n).map fun i => s.engine.scr.readVec (s.engine.cur.src.toNat + 16 * i) 16
       (List.range n).map (fun i => t.engine.scr.readVec (s.engine.cur.dst.toNat + 16 * i) 16) =
         cbcDec s.engine.ks[k].value s.engine.chain.value cipher ∧
       t.engine.chain.value = cipher.getLastD s.engine.chain.value)

/-- R140: HCTX becomes ACTIVE with a copy of the slot's key and an empty message, whatever it was. -/
def Obligations.HmacinitStartsContext : Prop :=
  ∀ (k : Fin 4) (s : State), s.engine.ks[k].valid = true →
    ∃ t, exec (.hmacinit k) s = .next t ∧ Succeeds s t ∧
      t.engine.hctx = .active s.engine.ks[k].value [] ∧
      t.engine.status.matched = s.engine.status.matched ∧ t.engine.ks = s.engine.ks ∧
      t.engine.chain = s.engine.chain ∧ SameScratch s t

/-- R141: the LEN bytes at SRC are appended to the message. -/
def Obligations.HmacupdAppendsMessage : Prop :=
  ∀ (s : State) (key : Key) (msg : Bytes),
    s.engine.cur.src.toNat + s.engine.cur.len.toNat ≤ s.params.scratchBytes →
    s.engine.hctx = .active key msg → msg.length + s.engine.cur.len.toNat ≤ 2 ^ 61 - 65 →
    ∃ t, exec .hmacupd s = .next t ∧ Succeeds s t ∧
      (∃ piece : Bytes, t.engine.hctx = .active key (msg ++ piece) ∧ piece.length = s.engine.cur.len.toNat ∧
        ∀ i, i < s.engine.cur.len.toNat → piece.getD i 0 = s.engine.scr.read (s.engine.cur.src.toNat + i)) ∧
      t.engine.status.matched = s.engine.status.matched ∧ t.engine.ks = s.engine.ks ∧
      t.engine.chain = s.engine.chain ∧ SameScratch s t

/-- R142: the 32 bytes at DST become the tag of the key and the whole message, and HCTX becomes NONE. -/
def Obligations.HmacfinWritesTag : Prop :=
  ∀ (s : State) (key : Key) (msg : Bytes), s.engine.scr.wf = true →
    s.engine.cur.dst.toNat + 32 ≤ s.params.scratchBytes → s.engine.hctx = .active key msg →
    ∃ t, exec .hmacfin s = .next t ∧ Succeeds s t ∧ t.engine.hctx = .none ∧
      (∀ i, i < 32 → t.engine.scr.read (s.engine.cur.dst.toNat + i) = (hmacSha256 key msg).getD i 0) ∧
      SameScratchOutside s t s.engine.cur.dst.toNat 32 ∧
      t.engine.status.matched = s.engine.status.matched ∧ t.engine.ks = s.engine.ks ∧
      t.engine.chain = s.engine.chain

/-- R143, R15: MATCH becomes 1 exactly when the two regions agree at every index. -/
def Obligations.CmpSetsMatch : Prop :=
  ∀ s : State, s.engine.cur.src.toNat + s.engine.cur.len.toNat ≤ s.params.scratchBytes →
    s.engine.cur.aux.toNat + s.engine.cur.len.toNat ≤ s.params.scratchBytes →
    ∃ t, exec .cmp s = .next t ∧ Succeeds s t ∧
      (t.engine.status.matched = true ↔ ∀ i, i < s.engine.cur.len.toNat →
        s.engine.scr.read (s.engine.cur.src.toNat + i) = s.engine.scr.read (s.engine.cur.aux.toNat + i)) ∧
      t.engine.ks = s.engine.ks ∧ t.engine.chain = s.engine.chain ∧ t.engine.hctx = s.engine.hctx ∧
      SameScratch s t

/-- R202: the LEN bytes at DST become 0x00; nothing else changes. -/
def Obligations.ScrubZeroesRegion : Prop :=
  ∀ s : State, s.engine.scr.wf = true →
    s.engine.cur.dst.toNat + s.engine.cur.len.toNat ≤ s.params.scratchBytes →
    ∃ t, exec .scrub s = .next t ∧ Succeeds s t ∧
      (∀ i, i < s.engine.cur.len.toNat → t.engine.scr.read (s.engine.cur.dst.toNat + i) = 0x00) ∧
      SameScratchOutside s t s.engine.cur.dst.toNat s.engine.cur.len.toNat ∧
      t.engine.status.matched = s.engine.status.matched ∧ t.engine.ks = s.engine.ks ∧
      t.engine.chain = s.engine.chain ∧ t.engine.hctx = s.engine.hctx

/-- R203: CHAIN becomes `0^16` invalid and HCTX NONE; nothing else changes. -/
def Obligations.CtxclearClearsContexts : Prop :=
  ∀ s : State, ∃ t, exec .ctxclear s = .next t ∧ Succeeds s t ∧
    t.engine.chain = ⟨Vector.replicate 16 0, false⟩ ∧ t.engine.hctx = .none ∧
    t.engine.status.matched = s.engine.status.matched ∧ t.engine.ks = s.engine.ks ∧ SameScratch s t

/-- R312, R314, R315, R320: a command reports the first of its checks that fails and changes nothing else;
when every check passes it succeeds. -/
def Obligations.FirstFailedCheckIsReported : Prop :=
  ∀ (i : Instr) (s : State), ∃ t, exec i s = .next t ∧
    match firstError i s with
    | some c => Fails c s t
    | none => Succeeds s t

/-- R145: two HMACUPD pieces leave the context that one HMACUPD of the joined piece leaves. -/
def Obligations.HmacSplitInvariance : Prop :=
  ∀ (s t u v : State) (a n₁ n₂ : Word), n₁.toNat + n₂.toNat < 2 ^ 32 → a.toNat + n₁.toNat < 2 ^ 32 →
    exec .hmacupd { s with engine := { s.engine with cur := ⟨0x9, a, 0, n₁, 0⟩ } } = .next t →
    exec .hmacupd { t with engine := { t.engine with cur := ⟨0x9, a + n₁, 0, n₂, 0⟩ } } = .next u →
    exec .hmacupd { s with engine := { s.engine with cur := ⟨0x9, a, 0, n₁ + n₂, 0⟩ } } = .next v →
    s.engine.status.err = false → u.engine.status.err = false → v.engine.status.err = false →
    u.engine.hctx = v.engine.hctx

/-- R204: KEYZERO all, SCRUB of the whole scratch and CTXCLEAR, run one after the other, leave the engine
in its reset state except CTRL, CMD, the operand registers, DONE and OVR. Each command is latched with
latency 0 (log entry 1). -/
def Obligations.EraseAllLeavesResetState : Prop :=
  ∀ s : State, s.Inv → s.engine.status.busy = false → s.engine.status.err = false →
    ∃ t u v : State,
      step (s.latchDue 0x403) = .next t ∧
      step (({ t with engine := { t.engine with
        dst := 0, len := BitVec.ofNat 32 s.params.scratchBytes } } : State).latchDue 0x00C) = .next u ∧
      step (u.latchDue 0x00D) = .next v ∧
      v.engine = { Engine.reset with
        ctrl := v.engine.ctrl, cmd := v.engine.cmd, src := v.engine.src, dst := v.engine.dst,
        len := v.engine.len, aux := v.engine.aux,
        status := { Engine.reset.status with done := true, ovr := s.engine.status.ovr } }

/-! ## The algorithms -/

/-- R12, R355: the padding is the least that fills whole blocks, `blocks(m)` of them, and a digest has 32
bytes. -/
def Obligations.ShaPaddingIsLeast : Prop :=
  ∀ m : Bytes, (m.length + 1 + shaPadZeros m.length + 8) % 64 = 0 ∧
    (∀ k, (m.length + 1 + k + 8) % 64 = 0 → shaPadZeros m.length ≤ k) ∧
    (shaPad m).length = m.length + 1 + shaPadZeros m.length + 8 ∧
    (shaPad m).length = 64 * shaBlockCount m.length ∧ (sha256 m).length = 32

/-- R120: the key is the first 32 bytes of the buffer `salt ++ 0^16 ++ password` (the code units as
`le16`) after 8192 rounds that each replace bytes [0, 32) by the digest of the whole buffer. -/
def Obligations.KdfIsIteratedSha256 : Prop :=
  ∀ (salt : Block) (pw : List (BitVec 16)),
    (kdfBuffer salt (passwordBytes pw)).length = 32 + 2 * pw.length ∧
    (kdf salt (passwordBytes pw)).toList =
      ((fun w : Bytes => sha256 w ++ w.drop 32)^[8192]
        (salt.toList ++ List.replicate 16 0 ++ (pw.map le16).flatten)).take 32

/-- R14: HMAC-SHA256 of a 32-byte key, as nested SHA-256 with the padded key xored bytewise. -/
def Obligations.HmacIsNestedSha256 : Prop :=
  ∀ (key : Key) (m : Bytes),
    let k0 : Bytes := key.toList ++ List.replicate 32 0
    hmacSha256 key m =
      sha256 (k0.map (· ^^^ 0x5c) ++ sha256 (k0.map (· ^^^ 0x36) ++ m))

/-- R13: `aes256_dec(k, aes256_enc(k, b)) = b` for every `k` and `b`. -/
def Obligations.AesDecryptsItsEncryption : Prop :=
  ∀ (key : Key) (b : Block), aes256Dec key (aes256Enc key b) = b

/-- R176: an AESENC, and later an AESENC with the same key value (from any slot, on any scratch) while CHAIN is
as the first left it, together write `cbc_enc` of the two sources joined, under the IV before the first; the
same for AESDEC and `cbc_dec`. R16: the same of the two functions. -/
def Obligations.CbcContinuesAcrossCommands : Prop :=
  (∀ (k j : Fin 4) (s s' t : State), AesReady k s → exec (.aesenc k) s = .next s' →
    AesReady j t → t.engine.ks[j].value = s.engine.ks[k].value → t.engine.chain = s'.engine.chain →
    ∃ t', exec (.aesenc j) t = .next t' ∧
      destBlocks s s'.engine.scr ++ destBlocks t t'.engine.scr =
        cbcEnc s.engine.ks[k].value s.engine.chain.value
          (sourceBlocks s s.engine.scr ++ sourceBlocks t t.engine.scr)) ∧
  (∀ (k j : Fin 4) (s s' t : State), AesReady k s → exec (.aesdec k) s = .next s' →
    AesReady j t → t.engine.ks[j].value = s.engine.ks[k].value → t.engine.chain = s'.engine.chain →
    ∃ t', exec (.aesdec j) t = .next t' ∧
      destBlocks s s'.engine.scr ++ destBlocks t t'.engine.scr =
        cbcDec s.engine.ks[k].value s.engine.chain.value
          (sourceBlocks s s.engine.scr ++ sourceBlocks t t.engine.scr)) ∧
  (∀ (key : Key) (iv : Block) (p q : List Block),
    cbcEnc key iv (p ++ q) = cbcEnc key iv p ++ cbcEnc key ((cbcEnc key iv p).getLastD iv) q ∧
    cbcDec key iv (p ++ q) = cbcDec key iv p ++ cbcDec key (p.getLastD iv) q)

/-! ## The host's side: registers -/

/-- R41, R341: every state element after either reset, and after power-on, as the host sees it and as the
engine holds it. -/
def Obligations.ResetState : Prop :=
  ∀ t : State,
    ((∃ p : Params, t = State.resetWith p) ∨ (∃ s : State, t = resetInput true s) ∨
      (∃ (s : State) (v : Word), s.resetHeld = false ∧ v.getLsbD 31 = true ∧ t = hostWrite 0x008 v s)) →
    readReg t.params t.engine .ctrl = 0 ∧ readReg t.params t.engine .status = 0 ∧
    readReg t.params t.engine .cmd = 0 ∧ readReg t.params t.engine .src = 0 ∧
    readReg t.params t.engine .dst = 0 ∧ readReg t.params t.engine .len = 0 ∧
    readReg t.params t.engine .aux = 0 ∧
    (∀ k : Fin 4, t.engine.ks[k].value = Vector.replicate 32 0 ∧ t.engine.ks[k].valid = false) ∧
    t.engine.chain.value = Vector.replicate 16 0 ∧ t.engine.chain.valid = false ∧ t.engine.hctx = .none ∧
    (∀ a, t.engine.scr.read a = 0x00) ∧ t.engine.status.busy = false ∧ irq t.engine = false

/-- R22: ID reads its constant, whose bytes in bus order are "AES" and 2, and a write to it changes nothing,
OVR included. -/
def Obligations.IdIsConstant : Prop :=
  ∀ (s : State) (v : Word), s.resetHeld = false →
    (hostRead 0x000 s).response = some (.data 0x02534541) ∧
    bytesOfWord 0x02534541 = [0x41, 0x45, 0x53, 0x02] ∧
    (hostRead 0x000 s).engine = s.engine ∧ (hostWrite 0x000 v s).engine = s.engine

/-- R23: PARAM's fields, its reserved bits, and that writes are ignored. -/
def Obligations.ParamDescribesImplementation : Prop :=
  ∀ (s : State) (v : Word), s.resetHeld = false →
    (∃ w : Word, (hostRead 0x004 s).response = some (.data w) ∧
      (w.extractLsb' 0 5).toNat = 10 + s.params.logExtra.val ∧
      2 ^ (w.extractLsb' 0 5).toNat = s.params.scratchBytes ∧
      w.extractLsb' 5 3 = 0 ∧ w.extractLsb' 8 4 = 4 ∧ w.extractLsb' 12 4 = 0 ∧
      w.extractLsb' 16 16 = 0x2000 ∧ (s.params.scratchBytes = 4096 → w = 0x2000040C)) ∧
    (hostWrite 0x004 v s).engine = s.engine

/-- R26: every bit of STATUS, and that a host read of STATUS answers them. -/
def Obligations.StatusShowsFlags : Prop :=
  (∀ s : State, s.resetHeld = false →
    (hostRead 0x00C s).response = some (.data (statusWord s.engine))) ∧
  ∀ e : Engine,
    (statusWord e).getLsbD 0 = e.status.busy ∧ (statusWord e).getLsbD 1 = e.status.done ∧
    (statusWord e).getLsbD 2 = e.status.err ∧ (statusWord e).getLsbD 3 = e.status.ovr ∧
    (statusWord e).getLsbD 4 = e.status.matched ∧
    ((statusWord e).getLsbD 5 = true ↔ e.hctx ≠ .none) ∧
    (statusWord e).getLsbD 6 = e.chain.valid ∧ (statusWord e).getLsbD 7 = false ∧
    (statusWord e).extractLsb' 8 8 = e.status.errcode ∧
    (∀ k : Fin 4, (statusWord e).getLsbD (16 + k) = e.ks[k].valid) ∧
    (statusWord e).extractLsb' 20 12 = 0

/-- R25: a write to CTRL, accepted whether or not BUSY is 1, and what a read of CTRL returns. -/
def Obligations.CtrlWriteResetsOrSetsEnables : Prop :=
  ∀ (s : State) (v : Word), s.resetHeld = false →
    (v.getLsbD 31 = true → (hostWrite 0x008 v s).engine =
      { Engine.reset with cur := (hostWrite 0x008 v s).engine.cur }) ∧
    (v.getLsbD 31 = false → (hostWrite 0x008 v s).engine =
      { s.engine with ctrl := ⟨v.getLsbD 0, v.getLsbD 1, v.getLsbD 2⟩ }) ∧
    (∃ w : Word, (hostRead 0x008 s).response = some (.data w) ∧ w.getLsbD 0 = s.engine.ctrl.ieDone ∧
      w.getLsbD 1 = s.engine.ctrl.ieErr ∧ w.getLsbD 2 = s.engine.ctrl.ieOvr ∧ w.extractLsb' 3 29 = 0)

/-- R27: a write to STATUS clears DONE, ERR with ERRCODE, and OVR where its bits 1, 2 and 3 are 1, changes
nothing else, and a read of STATUS has no side effect. -/
def Obligations.StatusWriteOneClears : Prop :=
  ∀ (s : State) (v : Word), s.resetHeld = false →
    (hostWrite 0x00C v s).engine = { s.engine with status := { s.engine.status with
      done := s.engine.status.done && !v.getLsbD 1
      err := s.engine.status.err && !v.getLsbD 2
      errcode := if v.getLsbD 2 then 0x00 else s.engine.status.errcode
      ovr := s.engine.status.ovr && !v.getLsbD 3 } } ∧
    (hostRead 0x00C s).engine = s.engine

/-- R29: a write to CMD is accepted when BUSY = 0 and ERR = 0, whatever the word, and an illegal word then
completes with ILLEGAL_CMD once its latency has passed; otherwise the write has no effect except
`OVR <- 1`. R28: a read of CMD answers the word held, which only an accepted write changes. That a latency has
passed is said by the model's counter at 0 (log entries 1 and 4), and the failed command leaves CUR as zeros
(log entry 5). -/
def Obligations.CmdWriteAcceptedOrDropped : Prop :=
  ∀ (s : State) (w : Word), s.resetHeld = false →
    (hostRead 0x010 s).response = some (.data s.engine.cmd) ∧
    (s.engine.status.busy = false → s.engine.status.err = false →
      (hostWrite 0x010 w s).engine = { s.engine with
        cmd := w
        cur := ⟨w, s.engine.src, s.engine.dst, s.engine.len, s.engine.aux⟩
        status := { s.engine.status with done := false, matched := false, busy := true } } ∧
      (legal w = false → ∃ t, step { hostWrite 0x010 w s with delay := 0 } = .next t ∧
        Fails .illegalCmd { hostWrite 0x010 w s with delay := 0 } t)) ∧
    ((s.engine.status.busy = true ∨ s.engine.status.err = true) →
      (hostWrite 0x010 w s).engine = { s.engine with status := { s.engine.status with ovr := true } } ∧
      (hostWrite 0x010 w s).delay = s.delay)

/-- R31: an operand-register write is dropped with OVR while BUSY = 1 and takes effect while BUSY = 0, also
when ERR = 1; the register then reads back the value (R30). -/
def Obligations.OperandWriteDroppedWhileBusy : Prop :=
  ∀ (s : State) (v : Word), s.resetHeld = false →
    (s.engine.status.busy = true → ∀ off ∈ [0x014, 0x018, 0x01C, 0x020],
      (hostWrite off v s).engine = { s.engine with status := { s.engine.status with ovr := true } }) ∧
    (s.engine.status.busy = false →
      (hostWrite 0x014 v s).engine = { s.engine with src := v } ∧
      (hostWrite 0x018 v s).engine = { s.engine with dst := v } ∧
      (hostWrite 0x01C v s).engine = { s.engine with len := v } ∧
      (hostWrite 0x020 v s).engine = { s.engine with aux := v } ∧
      ∀ off ∈ [0x014, 0x018, 0x01C, 0x020],
        (hostRead off (hostWrite off v s)).response = some (.data v))

/-- R32: a reserved offset reads 0, and a write to it is ignored and does not set OVR. -/
def Obligations.ReservedOffsetsReadZero : Prop :=
  ∀ (s : State) (v : Word) (off : Nat), s.resetHeld = false → 0x024 ≤ off → off ≤ 0xFFC → off % 4 = 0 →
    (hostRead off s).response = some (.data 0) ∧ (hostRead off s).engine = s.engine ∧
    (hostWrite off v s).engine = s.engine

/-- R40: the interrupt output is a function of the state, by its formula. -/
def Obligations.IrqIsLevelOfEnabledFlags : Prop :=
  ∀ e : Engine, irq e = true ↔
    (e.status.done = true ∧ e.ctrl.ieDone = true) ∨ (e.status.err = true ∧ e.ctrl.ieErr = true) ∨
    (e.status.ovr = true ∧ e.ctrl.ieOvr = true)

/-! ## The host's side: scratch, bus errors, reset -/

/-- R62: an access that is not 32 bits wide or not at a multiple of 4 gets a bus error response and has no
effect on the engine. -/
def Obligations.MisshapenAccessIsBusError : Prop :=
  ∀ (s : State) (w : Width) (off : Nat) (v : Word), s.resetHeld = false → off < s.params.windowBytes →
    (w ≠ .w32 ∨ off % 4 ≠ 0) →
    (busAccess (.read w (s.params.engineBase + off)) s).response = some .busError ∧
    (busAccess (.read w (s.params.engineBase + off)) s).engine = s.engine ∧
    (busAccess (.write w (s.params.engineBase + off) v) s).response = some .busError ∧
    (busAccess (.write w (s.params.engineBase + off) v) s).engine = s.engine

/-- R63, R64: while BUSY = 0 a scratch-window write at `0x1000 + 4j` stores the value's bytes little-endian
and changes no other byte, and a read there returns the four bytes little-endian. -/
def Obligations.ScratchWindowIsLittleEndian : Prop :=
  ∀ (s : State) (v : Word) (j : Nat), s.engine.scr.wf = true → s.resetHeld = false →
    s.engine.status.busy = false → 4 * j < s.params.scratchBytes →
    (let t := hostWrite (0x1000 + 4 * j) v s
     t.engine = { s.engine with scr := t.engine.scr } ∧
     (∀ i, i < 4 → t.engine.scr.read (4 * j + i) = v.extractLsb' (8 * i) 8) ∧
     (∀ a, ¬(4 * j ≤ a ∧ a < 4 * j + 4) → t.engine.scr.read a = s.engine.scr.read a)) ∧
    (let t := hostRead (0x1000 + 4 * j) s
     t.engine = s.engine ∧ ∃ w : Word, t.response = some (.data w) ∧
       w = (s.engine.scr.read (4 * j)).setWidth 32 ||| (s.engine.scr.read (4 * j + 1)).setWidth 32 <<< 8 |||
         (s.engine.scr.read (4 * j + 2)).setWidth 32 <<< 16 |||
         (s.engine.scr.read (4 * j + 3)).setWidth 32 <<< 24)

/-- R65, R66: while BUSY = 1 a scratch-window write is dropped with OVR, and a scratch-window read returns
the next free value, sets no OVR and changes nothing in the engine. The counter of free values is the
model's (log entry 3). -/
def Obligations.ScratchWindowWhileBusy : Prop :=
  ∀ (s : State) (v : Word) (j : Nat), s.resetHeld = false → s.engine.status.busy = true →
    4 * j < s.params.scratchBytes →
    (hostWrite (0x1000 + 4 * j) v s).engine =
      { s.engine with status := { s.engine.status with ovr := true } } ∧
    (hostRead (0x1000 + 4 * j) s).engine = s.engine ∧
    (hostRead (0x1000 + 4 * j) s).response = some (.data (Config.freeScratchRead s.readDraws)) ∧
    (hostRead (0x1000 + 4 * j) s).readDraws = s.readDraws + 1

/-- R61, R340: an access outside the window is not routed to the engine, and none is accepted while the
reset input is asserted; the engine does not change. The two answers are the model's (log entries 7
and 11). -/
def Obligations.UnroutedAndHeldAccesses : Prop :=
  ∀ (s : State) (a : Access),
    (s.resetHeld = false →
      (a.addr < s.params.engineBase ∨ s.params.engineBase + s.params.windowBytes ≤ a.addr) →
      busAccess a s = { s with response := some .notRouted }) ∧
    (s.resetHeld = true → busAccess a s = { s with response := some .notAccepted })

/-- R341, R343: a soft reset and the reset input's assertion put the engine into R41's state from any state,
a command in flight included, and IRQ is then 0. -/
def Obligations.ResetErasesEverything : Prop :=
  ∀ s t : State, (t = resetInput true s ∨
      (s.resetHeld = false ∧ ∃ v : Word, v.getLsbD 31 = true ∧ t = hostWrite 0x008 v s)) →
    t.engine = Engine.reset ∧ irq t.engine = false ∧ t.engine.status.busy = false ∧
    t.engine.status.done = false ∧ t.engine.status.err = false ∧ t.due = false

/-! ## Timing and secrecy -/

/-- R354: a command in flight completes after its drawn latency, whatever the host does meanwhile, unless a
reset comes first; and the latency drawn at acceptance is at most MAX_LATENCY. The latency and its bound
are free values (log entry 4), and the host's events stand in a queue (log entry 6). -/
def Obligations.CommandCompletesInTime : Prop :=
  (∀ s : State, s.engine.status.busy = true → (∀ ev ∈ s.queue, isReset s.params ev = false) →
    (runSteps s.delay s).due = true ∧ (runSteps (s.delay + 1) s).engine.status.busy = false) ∧
  (∀ (s : State) (w : Word), (s.acceptCommand w).delay ≤
    Config.freeMaxLatency (fieldOpc w) s.engine.len s.engine.hctx.msgLength)

/-- R356: two machines that differ only in scratch contents, key values, CHAIN's value, the HMAC key and
message bytes and MATCH stay so in every step: commands complete in the same steps with the same flags.
What the latency is drawn from is the model's reading of R356 (log entry 4). -/
def Obligations.TimingIsDataIndependent : Prop :=
  ∀ s t s' t' : State, TimingAlike s t → step s = .next s' → step t = .next t' → TimingAlike s' t'

/-- R33, R124: no bus access shows the value of a key slot or of the HMAC context's key: two machines that
differ only in those answer every access alike and still differ only in those. That a scratch read while
BUSY = 1 answers alike in both is the model's one free function at equal counters (log entry 3). -/
def Obligations.KeysHaveNoBusAddress : Prop :=
  ∀ (s t : State) (a : Access), KeysAlike s t →
    (busAccess a s).response = (busAccess a t).response ∧ KeysAlike (busAccess a s) (busAccess a t)

/-! ## The host protocol -/

/-- R99: after WAIT the engine is idle, from every state whose reset input is released and whose own queue
is empty (log entry 6). -/
def Obligations.WaitEndsWithIdleEngine : Prop :=
  ∀ s : State, s.resetHeld = false → s.queue = [] →
    (HostProg.final wait s).engine.status.busy = false ∧ (HostProg.final wait s).queue = []

/-- R98, R100: issuing a line on an idle engine without error latches the line's word, with the operand
registers the line writes at the line's values and the others as they were. The host's accesses are served
as log entry 6 says. -/
def Obligations.IssueLatchesLine : Prop :=
  ∀ (s : State) (l : Line), s.resetHeld = false → s.queue = [] → s.engine.status.busy = false →
    s.engine.status.err = false →
    let t := HostProg.final (issue l) s
    let opnd (r : Reg) (old : Word) : Word := ((l.operands.find? fun x => x.1 == r).map Prod.snd).getD old
    t.engine.status.busy = true ∧ t.engine.cmd = encode l.instr ∧
    t.engine.cur = ⟨encode l.instr, opnd .src s.engine.src, opnd .dst s.engine.dst,
      opnd .len s.engine.len, opnd .aux s.engine.aux⟩ ∧
    t.engine.scr = s.engine.scr ∧ t.engine.ks = s.engine.ks ∧ t.engine.chain = s.engine.chain ∧
    t.engine.hctx = s.engine.hctx

/-- R228: the length of a container, the lengths of its parts, and that each part stands in the container at the
offset R228 gives. A CREATOR longer than R223 allows is not shut out: the model's functions are total there
(log entry 21). -/
def Obligations.ContainerLength : Prop :=
  ∀ (creator : Bytes) (pw : List (BitVec 16)) (d : Draws) (p : Bytes),
    (container creator pw d p).length = 279 + creator.length + 16 * (p.length / 16 + 1) ∧
    fileHeader.length = 5 ∧ (extensionSection creator).length = 145 + creator.length ∧
    (fileHeader ++ extensionSection creator).length = 150 + creator.length ∧
    (credentialsBlock pw d).length = 96 ∧ (contentStream d p).length = 16 * (p.length / 16 + 1) ∧
    (trailer d p).length = 33 ∧
    (let s := container creator pw d p
     slice s 0 5 = fileHeader ∧ slice s 5 (150 + creator.length) = extensionSection creator ∧
     slice s (150 + creator.length) (246 + creator.length) = credentialsBlock pw d ∧
     slice s (246 + creator.length) (s.length - 33) = contentStream d p ∧
     slice s (s.length - 33) s.length = trailer d p)

/-- R286: between calls the decoder's buffer is bounded phase by phase, whatever chunk is fed. -/
def Obligations.DecoderBufferIsBounded : Prop :=
  let bounded (d : Decoder) : Prop :=
    match d.phase with
    | .header => d.buf.length < 5
    | .extLen => d.buf.length < 2
    | .extSkip k => 1 ≤ k ∧ d.buf.length = 0
    | .credentials => d.buf.length < 96
    | .content => d.buf.length ≤ 64
    | .done => d.buf.length = 0
    | .failed _ => d.buf.length = 0
  (∀ pw, bounded (Decoder.start pw)) ∧
  (∀ (chunk : Bytes) (d : Decoder) (s : State), bounded d → bounded (decFeed chunk d s).2.1) ∧
  (∀ (d : Decoder) (s : State), bounded d → bounded (decFinish d s).2.1) ∧
  (∀ d, bounded d → d.buf.length ≤ 95)

/-- R273: a first chunk of five bytes or more is judged by its magic first and its version next, and a
failure is terminal with the password and the buffer erased (R280). -/
def Obligations.DecoderChecksHeader : Prop :=
  ∀ (pw : List (BitVec 16)) (chunk : Bytes) (s : State), 5 ≤ chunk.length →
    (chunk.take 3 ≠ [0x41, 0x45, 0x53] →
      (decFeed chunk (Decoder.start pw) s).1 = .err .badFormat ∧
      (decFeed chunk (Decoder.start pw) s).2.1 = ⟨.failed .badFormat, [], none⟩) ∧
    (chunk.take 3 = [0x41, 0x45, 0x53] → chunk.getD 3 0 ≠ 0x02 →
      (decFeed chunk (Decoder.start pw) s).1 = .err .unsupportedVersion ∧
      (decFeed chunk (Decoder.start pw) s).2.1 = ⟨.failed .unsupportedVersion, [], none⟩)

/-- R277: what `finish` returns outside CONTENT, and in CONTENT with a tail that is not 49 bytes. R280, R288: after
a failure, and after DONE, what `finish` and `feed` return, and that they change nothing. -/
def Obligations.DecoderEndOfInput : Prop :=
  ∀ (d : Decoder) (s : State) (chunk : Bytes),
    ((∀ e, d.phase = .failed e → decFinish d s = (.err e, d, s) ∧ decFeed chunk d s = (.err e, d, s)) ∧
     (d.phase = .done → decFinish d s = (.ok [], d, s) ∧ decFeed chunk d s = (.refused, d, s))) ∧
    ((d.phase = .header ∨ d.phase = .extLen ∨ (∃ k, d.phase = .extSkip k) ∨ d.phase = .credentials) →
      (decFinish d s).1 = .err .truncatedFile ∧ (decFinish d s).2.1.phase = .failed .truncatedFile) ∧
    (d.phase = .content → d.buf.length < 49 → (decFinish d s).1 = .err .truncatedFile) ∧
    (d.phase = .content → 49 < d.buf.length → (decFinish d s).1 = .err .integrityError)

/-- R251, R256, R257: an empty first feed changes nothing, and after `finish` a feed is refused and a
second `finish` emits nothing. -/
def Obligations.EncoderIdleCalls : Prop :=
  ∀ (creator chunk : Bytes) (draws : Option Draws) (e : Encoder) (s : State),
    (e.phase = .uninitialized → encFeed creator draws [] e s = (.emitted [], e, s)) ∧
    (e.phase = .finalized → encFinish creator draws e s = (.emitted [], e, s) ∧
      encFeed creator draws chunk e s = (.refused, e, s))
end

