-- ==== Sys2Proof/Laws/Aes.lean ====
section
/-! SUPPORT. The layers of an AES round and their inverses (00_scope.md R13). -/

namespace Sys2Proof.Machine

/-- `gmul` is additive in its second argument (R13). -/
theorem gmul_xor (a x y : Byte) : gmul a (x ^^^ y) = gmul a x ^^^ gmul a y := by
  have bitSum : ∀ (p q : Bool) (v : Byte), (if (p ^^ q) = true then v else 0x00) =
      (if p = true then v else 0x00) ^^^ (if q = true then v else 0x00) := by
    intro p q v
    cases p <;> cases q <;> simp
  simp only [gmul, List.range, List.range.loop, List.map, List.foldl, BitVec.getLsbD_xor]
  generalize xtimes 0 a = a0
  generalize xtimes 1 a = a1
  generalize xtimes 2 a = a2
  generalize xtimes 3 a = a3
  generalize xtimes 4 a = a4
  generalize xtimes 5 a = a5
  generalize xtimes 6 a = a6
  generalize xtimes 7 a = a7
  simp only [bitSum]
  ac_rfl

theorem cell_ofCells (f : Nat → Nat → Byte) {r c : Nat} (hr : r < 4) (hc : c < 4) :
    cell (ofCells f) r c = f r c := by
  simp only [cell, ofCells, Vector.getElem_ofFn]
  congr 1 <;> omega

/-- A block is made of its cells. -/
theorem ofCells_cell (s : Block) : ofCells (fun r c => cell s r c) = s := by
  apply Vector.ext
  intro i hi
  simp only [ofCells, Vector.getElem_ofFn, cell]
  congr 1
  omega

theorem ofCells_congr {f g : Nat → Nat → Byte} (h : ∀ r c, r < 4 → c < 4 → f r c = g r c) :
    ofCells f = ofCells g := by
  apply Vector.ext
  intro i hi
  simp only [ofCells, Vector.getElem_ofFn]
  exact h _ _ (by omega) (by omega)

/-- Adding a string twice gives the first string back. -/
theorem xorVec_xorVec {n : Nat} (s k : Vector Byte n) : xorVec (xorVec s k) k = s := by
  apply Vector.ext
  intro i hi
  simp [xorVec]

/-- `IS[S[x]] = x` in every byte (R13). -/
theorem invSubBytes_subBytes (s : Block) : invSubBytes (subBytes s) = s := by
  have h : ∀ x : Fin 256, invSbox (sbox (BitVec.ofFin x)) = BitVec.ofFin x := by decide +kernel
  apply Vector.ext
  intro i hi
  simp only [invSubBytes, subBytes, Vector.getElem_map]
  exact h (s[i]).toFin

theorem invShiftRows_shiftRows (s : Block) : invShiftRows (shiftRows s) = s := by
  conv_rhs => rw [← ofCells_cell s]
  apply ofCells_congr
  intro r c hr hc
  simp only [shiftRows, cell, ofCells, Vector.getElem_ofFn]
  congr 1
  omega

/-- The coefficient of cell `k` in row `r` of a matrix. -/
def matrixEntry (m : List (List Byte)) (r k : Nat) : Byte := (m.getD r []).getD k 0

/-- Row `r` of `IM` times column `k` of `M`, applied to a byte. -/
def mixProduct (r k : Nat) (x : Byte) : Byte :=
  gmul (matrixEntry invMixMatrix r 0) (gmul (matrixEntry mixMatrix 0 k) x) ^^^
  gmul (matrixEntry invMixMatrix r 1) (gmul (matrixEntry mixMatrix 1 k) x) ^^^
  gmul (matrixEntry invMixMatrix r 2) (gmul (matrixEntry mixMatrix 2 k) x) ^^^
  gmul (matrixEntry invMixMatrix r 3) (gmul (matrixEntry mixMatrix 3 k) x)

/-- A byte is the sum of its bits. -/
theorem byte_eq_sum_bits (x : Byte) :
    x = (List.range 8).foldl (fun a i => a ^^^ (if x.getLsbD i then BitVec.twoPow 8 i else 0)) 0 := by
  have h : ∀ y : Fin 256, (BitVec.ofFin y : Byte) = (List.range 8).foldl
      (fun a i => a ^^^ (if (BitVec.ofFin y : Byte).getLsbD i then BitVec.twoPow 8 i else 0)) (0 : Byte) := by
    decide +kernel
  exact h x.toFin

/-- Two additive functions that agree on the eight one-bit bytes agree. -/
theorem additive_ext (f g : Byte → Byte) (hf : ∀ x y, f (x ^^^ y) = f x ^^^ f y)
    (hg : ∀ x y, g (x ^^^ y) = g x ^^^ g y) (h : ∀ i : Fin 8, f (BitVec.twoPow 8 i) = g (BitVec.twoPow 8 i))
    (x : Byte) : f x = g x := by
  have zero (k : Byte → Byte) (hk : ∀ x y, k (x ^^^ y) = k x ^^^ k y) : k 0 = 0 := by
    have := hk 0 0
    rw [BitVec.xor_self, BitVec.xor_self] at this
    exact this
  have step (l : List Nat) (hl : ∀ i ∈ l, i < 8) (a : Byte) (ha : f a = g a) :
      f (l.foldl (fun a i => a ^^^ (if x.getLsbD i then BitVec.twoPow 8 i else 0)) a) =
      g (l.foldl (fun a i => a ^^^ (if x.getLsbD i then BitVec.twoPow 8 i else 0)) a) := by
    induction l generalizing a with
    | nil => exact ha
    | cons i l ih =>
      refine ih (fun j hj => hl j (List.mem_cons_of_mem i hj)) _ ?_
      rw [hf, hg, ha]
      cases x.getLsbD i
      · exact congrArg _ ((zero f hf).trans (zero g hg).symm)
      · exact congrArg _ (h ⟨i, hl i (List.mem_cons_self ..)⟩)
  rw [byte_eq_sum_bits x]
  exact step _ (fun i hi => List.mem_range.mp hi) 0 ((zero f hf).trans (zero g hg).symm)

/-- `IM M` is the identity matrix over GF(2^8) (R13). -/
theorem mixProduct_eq (r k : Fin 4) (x : Byte) : mixProduct r k x = if r = k then x else 0 := by
  have h : ∀ r k : Fin 4, ∀ i : Fin 8,
      mixProduct r k (BitVec.twoPow 8 i) = if r = k then BitVec.twoPow 8 i else 0 := by decide +kernel
  refine additive_ext (mixProduct r k) (fun x => if r = k then x else 0) ?_ ?_ (h r k) x
  · intro x y
    simp only [mixProduct, gmul_xor]
    ac_rfl
  · intro x y
    split <;> simp

end Sys2Proof.Machine
end

