-- ==== Sys2Proof/Laws/Memory.lean ====
section
/-! SUPPORT. The laws of the scratch memory: what a write changes and what it leaves, and that every write
keeps the canonical form. -/

namespace Sys2Proof.Machine

@[simp] theorem Memory.read_nil (a : Nat) : Memory.read [] a = 0 := rfl

theorem Memory.read_cons (c : Host.Cell) (m : Memory) (a : Nat) :
    Memory.read (c :: m) a = if c.1 = a then c.2 else Memory.read m a := rfl

/-- Every entry of `m` stands at an offset above `b`. -/
abbrev Memory.above (b : Nat) (m : Memory) : Prop := ∀ d ∈ m, b < d.1

/-- The canonical form of a non-empty memory, clause by clause. -/
theorem Memory.wf_cons (c : Host.Cell) (m : Memory) :
    Memory.wf (c :: m) = true ↔ c.2 ≠ Memory.unlisted ∧ Memory.above c.1 m ∧ Memory.wf m = true := by
  simp [Memory.wf, Memory.above, and_assoc]

/-- Below all entries every offset reads as unlisted. -/
theorem Memory.read_of_above {m : Memory} {b a : Nat} (h : Memory.above b m) (ha : a ≤ b) : m.read a = 0 := by
  induction m with
  | nil => rfl
  | cons c m ih =>
    have hc : b < c.1 := h c (by simp)
    rw [Memory.read_cons, if_neg (by omega)]
    exact ih fun d hd => h d (by simp [hd])

theorem Memory.read_consByte {m : Memory} {a : Nat} (v : Byte) (h : Memory.above a m) (x : Nat) :
    (Memory.consByte a v m).read x = if x = a then v else m.read x := by
  unfold Memory.consByte
  by_cases hv : v = Memory.unlisted
  · rw [if_pos hv]
    by_cases hx : x = a
    · subst hx; rw [if_pos rfl, Memory.read_of_above h le_rfl, hv]; rfl
    · rw [if_neg hx]
  · rw [if_neg hv, Memory.read_cons]
    by_cases hx : x = a
    · subst hx; simp
    · rw [if_neg hx, if_neg (Ne.symm hx)]

theorem Memory.above_tail {b : Nat} {c : Host.Cell} {m : Memory} (h : Memory.above b (c :: m)) : Memory.above b m :=
  fun d hd => h d (by simp [hd])

/-- What reading any offset gives after a byte was written: "`SCR[a] <- v`" and nothing else (R10). -/
theorem Memory.read_write {m : Memory} (h : m.wf = true) (a : Nat) (v : Byte) (x : Nat) :
    (m.write a v).read x = if x = a then v else m.read x := by
  induction m with
  | nil => exact Memory.read_consByte v (fun d hd => by simp at hd) x
  | cons c m ih =>
    obtain ⟨_, habove, hwf⟩ := (Memory.wf_cons c m).1 h
    unfold Memory.write
    split
    · rename_i hlt
      apply Memory.read_consByte
      intro d hd
      rcases List.mem_cons.1 hd with rfl | hd
      · exact hlt
      · exact lt_trans hlt (habove d hd)
    · split
      · rename_i heq
        subst heq
        rw [Memory.read_consByte v habove, Memory.read_cons]
        by_cases hx : x = c.1
        · simp [hx]
        · rw [if_neg hx, if_neg hx, if_neg (Ne.symm hx)]
      · rename_i hne
        rw [Memory.read_cons, Memory.read_cons, ih hwf]
        by_cases hc : c.1 = x
        · rw [if_pos hc, if_pos hc, if_neg (by omega)]
        · rw [if_neg hc, if_neg hc]

/-- A write adds no offset but its own. -/
theorem Memory.mem_write {m : Memory} {a : Nat} {v : Byte} {d : Host.Cell} (h : d ∈ m.write a v) :
    d = (a, v) ∨ d ∈ m := by
  induction m with
  | nil =>
    unfold Memory.write Memory.consByte at h
    split at h <;> simp_all
  | cons c m ih =>
    unfold Memory.write Memory.consByte at h
    split at h
    · split at h <;> simp_all
    · split at h
      · split at h
        · exact .inr (by simp [h])
        · rcases List.mem_cons.1 h with h | h
          · exact .inl h
          · exact .inr (by simp [h])
      · rcases List.mem_cons.1 h with h | h
        · exact .inr (by simp [h])
        · rcases ih h with h | h
          · exact .inl h
          · exact .inr (by simp [h])

theorem Memory.wf_consByte {m : Memory} {a : Nat} (v : Byte) (h : Memory.above a m) (hm : m.wf = true) :
    (Memory.consByte a v m).wf = true := by
  unfold Memory.consByte
  split
  · exact hm
  · rename_i hv; exact (Memory.wf_cons _ _).2 ⟨hv, h, hm⟩

/-- A write keeps the canonical form. -/
theorem Memory.wf_write {m : Memory} (h : m.wf = true) (a : Nat) (v : Byte) : (m.write a v).wf = true := by
  induction m with
  | nil => exact Memory.wf_consByte v (fun d hd => by simp at hd) rfl
  | cons c m ih =>
    obtain ⟨hc, habove, hwf⟩ := (Memory.wf_cons c m).1 h
    unfold Memory.write
    split
    · rename_i hlt
      refine Memory.wf_consByte v (fun d hd => ?_) h
      rcases List.mem_cons.1 hd with rfl | hd
      · exact hlt
      · exact lt_trans hlt (habove d hd)
    · split
      · rename_i heq
        subst heq
        exact Memory.wf_consByte v habove hwf
      · rename_i hlt hne
        refine (Memory.wf_cons _ _).2 ⟨hc, fun d hd => ?_, ih hwf⟩
        rcases Memory.mem_write hd with rfl | hd
        · show c.1 < a; omega
        · exact habove d hd

theorem Memory.inside_iff (n : Nat) (m : Memory) : m.inside n = true ↔ ∀ d ∈ m, d.1 < n := by
  simp [Memory.inside]

/-- A write inside the scratch keeps every entry inside. -/
theorem Memory.inside_write {m : Memory} {n a : Nat} (h : m.inside n = true) (ha : a < n) (v : Byte) :
    (m.write a v).inside n = true := by
  rw [Memory.inside_iff] at *
  intro d hd
  rcases Memory.mem_write hd with rfl | hd
  · exact ha
  · exact h d hd

/-! ## Byte strings -/

theorem Memory.wf_writeBytes {m : Memory} (h : m.wf = true) (a : Nat) (vs : Bytes) :
    (m.writeBytes a vs).wf = true := by
  induction vs generalizing m a with
  | nil => exact h
  | cons v vs ih => exact ih (Memory.wf_write h a v) (a + 1)

theorem Memory.inside_writeBytes {m : Memory} {n a : Nat} (vs : Bytes) (h : m.inside n = true)
    (ha : a + vs.length ≤ n) : (m.writeBytes a vs).inside n = true := by
  induction vs generalizing m a with
  | nil => exact h
  | cons v vs ih =>
    simp only [List.length_cons] at ha
    exact ih (Memory.inside_write h (by omega) v) (by omega)

/-- What reading any offset gives after `MemWrite(a, |vs|, vs)` (R10): inside the range the string's byte,
outside it what stood there. -/
theorem Memory.read_writeBytes {m : Memory} (h : m.wf = true) (a : Nat) (vs : Bytes) (x : Nat) :
    (m.writeBytes a vs).read x = if a ≤ x ∧ x < a + vs.length then vs.getD (x - a) 0 else m.read x := by
  induction vs generalizing m a with
  | nil => rw [if_neg (by simp)]; rfl
  | cons v vs ih =>
    have hw := ih (Memory.wf_write h a v) (a + 1)
    rw [Memory.writeBytes, hw, Memory.read_write h, List.length_cons]
    by_cases hx : x = a
    · subst hx
      rw [if_neg (by omega), if_pos rfl, if_pos (by omega)]
      simp
    · rw [if_neg hx]
      by_cases hin : a + 1 ≤ x ∧ x < a + 1 + vs.length
      · rw [if_pos hin, if_pos (by omega), show x - a = (x - (a + 1)) + 1 by omega]
        simp
      · rw [if_neg hin, if_neg (by omega)]

@[simp] theorem Memory.length_readBytes (m : Memory) (a n : Nat) : (m.readBytes a n).length = n := by
  simp [Memory.readBytes]

theorem Memory.getElem_readBytes (m : Memory) (a n i : Nat) (h : i < (m.readBytes a n).length) :
    (m.readBytes a n)[i] = m.read (a + i) := by
  simp [Memory.readBytes]

@[simp] theorem Memory.getElem_readVec (m : Memory) (a n i : Nat) (h : i < n) :
    (m.readVec a n)[i] = m.read (a + i) := by
  simp [Memory.readVec]

/-- The two forms of `MemRead` agree. -/
theorem Memory.toList_readVec (m : Memory) (a n : Nat) : (m.readVec a n).toList = m.readBytes a n := by
  apply List.ext_getElem
  · simp
  · intro i h1 h2
    simp [Memory.readVec, Memory.readBytes]

/-- A string read in one piece or in two is the same (R145's ground). -/
theorem Memory.readBytes_add (m : Memory) (a n k : Nat) :
    m.readBytes a (n + k) = m.readBytes a n ++ m.readBytes (a + n) k := by
  simp only [Memory.readBytes, List.range_add, List.map_append, List.map_map]
  congr 1
  apply List.map_congr_left
  intro i _
  simp [Nat.add_assoc]

/-- Two canonical memories that read alike everywhere are equal. -/
theorem Memory.ext_read {m₁ m₂ : Memory} (h₁ : m₁.wf = true) (h₂ : m₂.wf = true)
    (h : ∀ a, m₁.read a = m₂.read a) : m₁ = m₂ := by
  induction m₁ generalizing m₂ with
  | nil =>
    cases m₂ with
    | nil => rfl
    | cons d m₂ =>
      obtain ⟨hd, _, _⟩ := (Memory.wf_cons d m₂).1 h₂
      exact absurd (by have := h d.1; rw [Memory.read_cons, if_pos rfl] at this; exact this.symm) hd
  | cons c m₁ ih =>
    obtain ⟨hc, hca, hcw⟩ := (Memory.wf_cons c m₁).1 h₁
    cases m₂ with
    | nil => exact absurd (by have := h c.1; rw [Memory.read_cons, if_pos rfl] at this; exact this) hc
    | cons d m₂ =>
      obtain ⟨hd, hda, hdw⟩ := (Memory.wf_cons d m₂).1 h₂
      have hcd : c.1 = d.1 := by
        by_contra hne
        rcases Nat.lt_or_gt_of_ne hne with hlt | hgt
        · have := h c.1
          rw [Memory.read_cons, if_pos rfl, Memory.read_cons, if_neg (by omega),
            Memory.read_of_above hda (by omega)] at this
          exact hc this
        · have := h d.1
          rw [Memory.read_cons, if_neg (by omega), Memory.read_of_above hca (by omega),
            Memory.read_cons, if_pos rfl] at this
          exact hd this.symm
      have hv : c.2 = d.2 := by
        have := h c.1
        rwa [Memory.read_cons, if_pos rfl, Memory.read_cons, if_pos hcd.symm] at this
      have htail : m₁ = m₂ := by
        refine ih hcw hdw fun a => ?_
        have := h a
        rw [Memory.read_cons, Memory.read_cons, ← hcd] at this
        by_cases ha : c.1 = a
        · rw [Memory.read_of_above hca (by omega), Memory.read_of_above hda (by omega)]
        · rwa [if_neg ha, if_neg ha] at this
      rw [htail, Prod.ext hcd hv]

end Sys2Proof.Machine
end

