-- ==== Sys2Proof/Laws/State.lean ====
section
/-! SUPPORT. One lemma per field per update of the engine's record and of the machine's state, each true by
`rfl` and a simp lemma, so that no later proof unfolds a record update. -/

namespace Sys2Proof.Machine

/-! ## Updates of the engine -/

section Engine_setSlot
variable (e : Engine) (k : Fin 4) (x : KeySlot)
@[simp] theorem Engine.setSlot_ctrl : (e.setSlot k x).ctrl = e.ctrl := rfl
@[simp] theorem Engine.setSlot_status : (e.setSlot k x).status = e.status := rfl
@[simp] theorem Engine.setSlot_cmd : (e.setSlot k x).cmd = e.cmd := rfl
@[simp] theorem Engine.setSlot_src : (e.setSlot k x).src = e.src := rfl
@[simp] theorem Engine.setSlot_dst : (e.setSlot k x).dst = e.dst := rfl
@[simp] theorem Engine.setSlot_len : (e.setSlot k x).len = e.len := rfl
@[simp] theorem Engine.setSlot_aux : (e.setSlot k x).aux = e.aux := rfl
@[simp] theorem Engine.setSlot_ks : (e.setSlot k x).ks = e.ks.set k x := rfl
@[simp] theorem Engine.setSlot_chain : (e.setSlot k x).chain = e.chain := rfl
@[simp] theorem Engine.setSlot_hctx : (e.setSlot k x).hctx = e.hctx := rfl
@[simp] theorem Engine.setSlot_scr : (e.setSlot k x).scr = e.scr := rfl
@[simp] theorem Engine.setSlot_cur : (e.setSlot k x).cur = e.cur := rfl
end Engine_setSlot

section Engine_loadKey
variable (e : Engine) (k : Fin 4) (v : Key)
@[simp] theorem Engine.loadKey_ctrl : (e.loadKey k v).ctrl = e.ctrl := rfl
@[simp] theorem Engine.loadKey_status : (e.loadKey k v).status = e.status := rfl
@[simp] theorem Engine.loadKey_cmd : (e.loadKey k v).cmd = e.cmd := rfl
@[simp] theorem Engine.loadKey_src : (e.loadKey k v).src = e.src := rfl
@[simp] theorem Engine.loadKey_dst : (e.loadKey k v).dst = e.dst := rfl
@[simp] theorem Engine.loadKey_len : (e.loadKey k v).len = e.len := rfl
@[simp] theorem Engine.loadKey_aux : (e.loadKey k v).aux = e.aux := rfl
@[simp] theorem Engine.loadKey_ks : (e.loadKey k v).ks = e.ks.set k ⟨v, true⟩ := rfl
@[simp] theorem Engine.loadKey_chain : (e.loadKey k v).chain = e.chain := rfl
@[simp] theorem Engine.loadKey_hctx : (e.loadKey k v).hctx = e.hctx := rfl
@[simp] theorem Engine.loadKey_scr : (e.loadKey k v).scr = e.scr := rfl
@[simp] theorem Engine.loadKey_cur : (e.loadKey k v).cur = e.cur := rfl
end Engine_loadKey

section Engine_clearKey
variable (e : Engine) (k : Fin 4)
@[simp] theorem Engine.clearKey_ctrl : (e.clearKey k).ctrl = e.ctrl := rfl
@[simp] theorem Engine.clearKey_status : (e.clearKey k).status = e.status := rfl
@[simp] theorem Engine.clearKey_cmd : (e.clearKey k).cmd = e.cmd := rfl
@[simp] theorem Engine.clearKey_src : (e.clearKey k).src = e.src := rfl
@[simp] theorem Engine.clearKey_dst : (e.clearKey k).dst = e.dst := rfl
@[simp] theorem Engine.clearKey_len : (e.clearKey k).len = e.len := rfl
@[simp] theorem Engine.clearKey_aux : (e.clearKey k).aux = e.aux := rfl
@[simp] theorem Engine.clearKey_ks : (e.clearKey k).ks = e.ks.set k KeySlot.cleared := rfl
@[simp] theorem Engine.clearKey_chain : (e.clearKey k).chain = e.chain := rfl
@[simp] theorem Engine.clearKey_hctx : (e.clearKey k).hctx = e.hctx := rfl
@[simp] theorem Engine.clearKey_scr : (e.clearKey k).scr = e.scr := rfl
@[simp] theorem Engine.clearKey_cur : (e.clearKey k).cur = e.cur := rfl
end Engine_clearKey

section Engine_clearAllKeys
variable (e : Engine)
@[simp] theorem Engine.clearAllKeys_ctrl : (e.clearAllKeys).ctrl = e.ctrl := rfl
@[simp] theorem Engine.clearAllKeys_status : (e.clearAllKeys).status = e.status := rfl
@[simp] theorem Engine.clearAllKeys_cmd : (e.clearAllKeys).cmd = e.cmd := rfl
@[simp] theorem Engine.clearAllKeys_src : (e.clearAllKeys).src = e.src := rfl
@[simp] theorem Engine.clearAllKeys_dst : (e.clearAllKeys).dst = e.dst := rfl
@[simp] theorem Engine.clearAllKeys_len : (e.clearAllKeys).len = e.len := rfl
@[simp] theorem Engine.clearAllKeys_aux : (e.clearAllKeys).aux = e.aux := rfl
@[simp] theorem Engine.clearAllKeys_ks : (e.clearAllKeys).ks = Vector.replicate 4 KeySlot.cleared := rfl
@[simp] theorem Engine.clearAllKeys_chain : (e.clearAllKeys).chain = e.chain := rfl
@[simp] theorem Engine.clearAllKeys_hctx : (e.clearAllKeys).hctx = e.hctx := rfl
@[simp] theorem Engine.clearAllKeys_scr : (e.clearAllKeys).scr = e.scr := rfl
@[simp] theorem Engine.clearAllKeys_cur : (e.clearAllKeys).cur = e.cur := rfl
end Engine_clearAllKeys

section Engine_setChain
variable (e : Engine) (c : Chain)
@[simp] theorem Engine.setChain_ctrl : (e.setChain c).ctrl = e.ctrl := rfl
@[simp] theorem Engine.setChain_status : (e.setChain c).status = e.status := rfl
@[simp] theorem Engine.setChain_cmd : (e.setChain c).cmd = e.cmd := rfl
@[simp] theorem Engine.setChain_src : (e.setChain c).src = e.src := rfl
@[simp] theorem Engine.setChain_dst : (e.setChain c).dst = e.dst := rfl
@[simp] theorem Engine.setChain_len : (e.setChain c).len = e.len := rfl
@[simp] theorem Engine.setChain_aux : (e.setChain c).aux = e.aux := rfl
@[simp] theorem Engine.setChain_ks : (e.setChain c).ks = e.ks := rfl
@[simp] theorem Engine.setChain_chain : (e.setChain c).chain = c := rfl
@[simp] theorem Engine.setChain_hctx : (e.setChain c).hctx = e.hctx := rfl
@[simp] theorem Engine.setChain_scr : (e.setChain c).scr = e.scr := rfl
@[simp] theorem Engine.setChain_cur : (e.setChain c).cur = e.cur := rfl
end Engine_setChain

section Engine_setHctx
variable (e : Engine) (h : Hctx)
@[simp] theorem Engine.setHctx_ctrl : (e.setHctx h).ctrl = e.ctrl := rfl
@[simp] theorem Engine.setHctx_status : (e.setHctx h).status = e.status := rfl
@[simp] theorem Engine.setHctx_cmd : (e.setHctx h).cmd = e.cmd := rfl
@[simp] theorem Engine.setHctx_src : (e.setHctx h).src = e.src := rfl
@[simp] theorem Engine.setHctx_dst : (e.setHctx h).dst = e.dst := rfl
@[simp] theorem Engine.setHctx_len : (e.setHctx h).len = e.len := rfl
@[simp] theorem Engine.setHctx_aux : (e.setHctx h).aux = e.aux := rfl
@[simp] theorem Engine.setHctx_ks : (e.setHctx h).ks = e.ks := rfl
@[simp] theorem Engine.setHctx_chain : (e.setHctx h).chain = e.chain := rfl
@[simp] theorem Engine.setHctx_hctx : (e.setHctx h).hctx = h := rfl
@[simp] theorem Engine.setHctx_scr : (e.setHctx h).scr = e.scr := rfl
@[simp] theorem Engine.setHctx_cur : (e.setHctx h).cur = e.cur := rfl
end Engine_setHctx

section Engine_setMatch
variable (e : Engine) (b : Bool)
@[simp] theorem Engine.setMatch_ctrl : (e.setMatch b).ctrl = e.ctrl := rfl
@[simp] theorem Engine.setMatch_busy : (e.setMatch b).status.busy = e.status.busy := rfl
@[simp] theorem Engine.setMatch_done : (e.setMatch b).status.done = e.status.done := rfl
@[simp] theorem Engine.setMatch_err : (e.setMatch b).status.err = e.status.err := rfl
@[simp] theorem Engine.setMatch_ovr : (e.setMatch b).status.ovr = e.status.ovr := rfl
@[simp] theorem Engine.setMatch_matched : (e.setMatch b).status.matched = b := rfl
@[simp] theorem Engine.setMatch_errcode : (e.setMatch b).status.errcode = e.status.errcode := rfl
@[simp] theorem Engine.setMatch_cmd : (e.setMatch b).cmd = e.cmd := rfl
@[simp] theorem Engine.setMatch_src : (e.setMatch b).src = e.src := rfl
@[simp] theorem Engine.setMatch_dst : (e.setMatch b).dst = e.dst := rfl
@[simp] theorem Engine.setMatch_len : (e.setMatch b).len = e.len := rfl
@[simp] theorem Engine.setMatch_aux : (e.setMatch b).aux = e.aux := rfl
@[simp] theorem Engine.setMatch_ks : (e.setMatch b).ks = e.ks := rfl
@[simp] theorem Engine.setMatch_chain : (e.setMatch b).chain = e.chain := rfl
@[simp] theorem Engine.setMatch_hctx : (e.setMatch b).hctx = e.hctx := rfl
@[simp] theorem Engine.setMatch_scr : (e.setMatch b).scr = e.scr := rfl
@[simp] theorem Engine.setMatch_cur : (e.setMatch b).cur = e.cur := rfl
end Engine_setMatch

section Engine_setScr
variable (e : Engine) (m : Memory)
@[simp] theorem Engine.setScr_ctrl : (e.setScr m).ctrl = e.ctrl := rfl
@[simp] theorem Engine.setScr_status : (e.setScr m).status = e.status := rfl
@[simp] theorem Engine.setScr_cmd : (e.setScr m).cmd = e.cmd := rfl
@[simp] theorem Engine.setScr_src : (e.setScr m).src = e.src := rfl
@[simp] theorem Engine.setScr_dst : (e.setScr m).dst = e.dst := rfl
@[simp] theorem Engine.setScr_len : (e.setScr m).len = e.len := rfl
@[simp] theorem Engine.setScr_aux : (e.setScr m).aux = e.aux := rfl
@[simp] theorem Engine.setScr_ks : (e.setScr m).ks = e.ks := rfl
@[simp] theorem Engine.setScr_chain : (e.setScr m).chain = e.chain := rfl
@[simp] theorem Engine.setScr_hctx : (e.setScr m).hctx = e.hctx := rfl
@[simp] theorem Engine.setScr_scr : (e.setScr m).scr = m := rfl
@[simp] theorem Engine.setScr_cur : (e.setScr m).cur = e.cur := rfl
end Engine_setScr

section Engine_memWrite
variable (e : Engine) (off : Nat) (v : Bytes)
@[simp] theorem Engine.memWrite_ctrl : (e.memWrite off v).ctrl = e.ctrl := rfl
@[simp] theorem Engine.memWrite_status : (e.memWrite off v).status = e.status := rfl
@[simp] theorem Engine.memWrite_cmd : (e.memWrite off v).cmd = e.cmd := rfl
@[simp] theorem Engine.memWrite_src : (e.memWrite off v).src = e.src := rfl
@[simp] theorem Engine.memWrite_dst : (e.memWrite off v).dst = e.dst := rfl
@[simp] theorem Engine.memWrite_len : (e.memWrite off v).len = e.len := rfl
@[simp] theorem Engine.memWrite_aux : (e.memWrite off v).aux = e.aux := rfl
@[simp] theorem Engine.memWrite_ks : (e.memWrite off v).ks = e.ks := rfl
@[simp] theorem Engine.memWrite_chain : (e.memWrite off v).chain = e.chain := rfl
@[simp] theorem Engine.memWrite_hctx : (e.memWrite off v).hctx = e.hctx := rfl
@[simp] theorem Engine.memWrite_scr : (e.memWrite off v).scr = e.scr.writeBytes off v := rfl
@[simp] theorem Engine.memWrite_cur : (e.memWrite off v).cur = e.cur := rfl
end Engine_memWrite

section Engine_setCbc
variable (e : Engine) (x : CbcState)
@[simp] theorem Engine.setCbc_ctrl : (e.setCbc x).ctrl = e.ctrl := rfl
@[simp] theorem Engine.setCbc_status : (e.setCbc x).status = e.status := rfl
@[simp] theorem Engine.setCbc_cmd : (e.setCbc x).cmd = e.cmd := rfl
@[simp] theorem Engine.setCbc_src : (e.setCbc x).src = e.src := rfl
@[simp] theorem Engine.setCbc_dst : (e.setCbc x).dst = e.dst := rfl
@[simp] theorem Engine.setCbc_len : (e.setCbc x).len = e.len := rfl
@[simp] theorem Engine.setCbc_aux : (e.setCbc x).aux = e.aux := rfl
@[simp] theorem Engine.setCbc_ks : (e.setCbc x).ks = e.ks := rfl
@[simp] theorem Engine.setCbc_chain : (e.setCbc x).chain = ⟨x.chain, e.chain.valid⟩ := rfl
@[simp] theorem Engine.setCbc_hctx : (e.setCbc x).hctx = e.hctx := rfl
@[simp] theorem Engine.setCbc_scr : (e.setCbc x).scr = x.scr := rfl
@[simp] theorem Engine.setCbc_cur : (e.setCbc x).cur = e.cur := rfl
end Engine_setCbc

section Engine_succeed
variable (e : Engine)
@[simp] theorem Engine.succeed_ctrl : (e.succeed).ctrl = e.ctrl := rfl
@[simp] theorem Engine.succeed_busy : (e.succeed).status.busy = false := rfl
@[simp] theorem Engine.succeed_done : (e.succeed).status.done = true := rfl
@[simp] theorem Engine.succeed_err : (e.succeed).status.err = e.status.err := rfl
@[simp] theorem Engine.succeed_ovr : (e.succeed).status.ovr = e.status.ovr := rfl
@[simp] theorem Engine.succeed_matched : (e.succeed).status.matched = e.status.matched := rfl
@[simp] theorem Engine.succeed_errcode : (e.succeed).status.errcode = e.status.errcode := rfl
@[simp] theorem Engine.succeed_cmd : (e.succeed).cmd = e.cmd := rfl
@[simp] theorem Engine.succeed_src : (e.succeed).src = e.src := rfl
@[simp] theorem Engine.succeed_dst : (e.succeed).dst = e.dst := rfl
@[simp] theorem Engine.succeed_len : (e.succeed).len = e.len := rfl
@[simp] theorem Engine.succeed_aux : (e.succeed).aux = e.aux := rfl
@[simp] theorem Engine.succeed_ks : (e.succeed).ks = e.ks := rfl
@[simp] theorem Engine.succeed_chain : (e.succeed).chain = e.chain := rfl
@[simp] theorem Engine.succeed_hctx : (e.succeed).hctx = e.hctx := rfl
@[simp] theorem Engine.succeed_scr : (e.succeed).scr = e.scr := rfl
@[simp] theorem Engine.succeed_cur : (e.succeed).cur = Latched.none := rfl
end Engine_succeed

section Engine_cmdError
variable (e : Engine) (c : CmdError)
@[simp] theorem Engine.cmdError_ctrl : (e.cmdError c).ctrl = e.ctrl := rfl
@[simp] theorem Engine.cmdError_busy : (e.cmdError c).status.busy = false := rfl
@[simp] theorem Engine.cmdError_done : (e.cmdError c).status.done = e.status.done := rfl
@[simp] theorem Engine.cmdError_err : (e.cmdError c).status.err = true := rfl
@[simp] theorem Engine.cmdError_ovr : (e.cmdError c).status.ovr = e.status.ovr := rfl
@[simp] theorem Engine.cmdError_matched : (e.cmdError c).status.matched = e.status.matched := rfl
@[simp] theorem Engine.cmdError_errcode : (e.cmdError c).status.errcode = c.code := rfl
@[simp] theorem Engine.cmdError_cmd : (e.cmdError c).cmd = e.cmd := rfl
@[simp] theorem Engine.cmdError_src : (e.cmdError c).src = e.src := rfl
@[simp] theorem Engine.cmdError_dst : (e.cmdError c).dst = e.dst := rfl
@[simp] theorem Engine.cmdError_len : (e.cmdError c).len = e.len := rfl
@[simp] theorem Engine.cmdError_aux : (e.cmdError c).aux = e.aux := rfl
@[simp] theorem Engine.cmdError_ks : (e.cmdError c).ks = e.ks := rfl
@[simp] theorem Engine.cmdError_chain : (e.cmdError c).chain = e.chain := rfl
@[simp] theorem Engine.cmdError_hctx : (e.cmdError c).hctx = e.hctx := rfl
@[simp] theorem Engine.cmdError_scr : (e.cmdError c).scr = e.scr := rfl
@[simp] theorem Engine.cmdError_cur : (e.cmdError c).cur = Latched.none := rfl
end Engine_cmdError

section Engine_clearError
variable (e : Engine)
@[simp] theorem Engine.clearError_ctrl : (e.clearError).ctrl = e.ctrl := rfl
@[simp] theorem Engine.clearError_busy : (e.clearError).status.busy = e.status.busy := rfl
@[simp] theorem Engine.clearError_done : (e.clearError).status.done = e.status.done := rfl
@[simp] theorem Engine.clearError_err : (e.clearError).status.err = false := rfl
@[simp] theorem Engine.clearError_ovr : (e.clearError).status.ovr = e.status.ovr := rfl
@[simp] theorem Engine.clearError_matched : (e.clearError).status.matched = e.status.matched := rfl
@[simp] theorem Engine.clearError_errcode : (e.clearError).status.errcode = 0x00 := rfl
@[simp] theorem Engine.clearError_cmd : (e.clearError).cmd = e.cmd := rfl
@[simp] theorem Engine.clearError_src : (e.clearError).src = e.src := rfl
@[simp] theorem Engine.clearError_dst : (e.clearError).dst = e.dst := rfl
@[simp] theorem Engine.clearError_len : (e.clearError).len = e.len := rfl
@[simp] theorem Engine.clearError_aux : (e.clearError).aux = e.aux := rfl
@[simp] theorem Engine.clearError_ks : (e.clearError).ks = e.ks := rfl
@[simp] theorem Engine.clearError_chain : (e.clearError).chain = e.chain := rfl
@[simp] theorem Engine.clearError_hctx : (e.clearError).hctx = e.hctx := rfl
@[simp] theorem Engine.clearError_scr : (e.clearError).scr = e.scr := rfl
@[simp] theorem Engine.clearError_cur : (e.clearError).cur = e.cur := rfl
end Engine_clearError

section Engine_clearDone
variable (e : Engine)
@[simp] theorem Engine.clearDone_ctrl : (e.clearDone).ctrl = e.ctrl := rfl
@[simp] theorem Engine.clearDone_busy : (e.clearDone).status.busy = e.status.busy := rfl
@[simp] theorem Engine.clearDone_done : (e.clearDone).status.done = false := rfl
@[simp] theorem Engine.clearDone_err : (e.clearDone).status.err = e.status.err := rfl
@[simp] theorem Engine.clearDone_ovr : (e.clearDone).status.ovr = e.status.ovr := rfl
@[simp] theorem Engine.clearDone_matched : (e.clearDone).status.matched = e.status.matched := rfl
@[simp] theorem Engine.clearDone_errcode : (e.clearDone).status.errcode = e.status.errcode := rfl
@[simp] theorem Engine.clearDone_cmd : (e.clearDone).cmd = e.cmd := rfl
@[simp] theorem Engine.clearDone_src : (e.clearDone).src = e.src := rfl
@[simp] theorem Engine.clearDone_dst : (e.clearDone).dst = e.dst := rfl
@[simp] theorem Engine.clearDone_len : (e.clearDone).len = e.len := rfl
@[simp] theorem Engine.clearDone_aux : (e.clearDone).aux = e.aux := rfl
@[simp] theorem Engine.clearDone_ks : (e.clearDone).ks = e.ks := rfl
@[simp] theorem Engine.clearDone_chain : (e.clearDone).chain = e.chain := rfl
@[simp] theorem Engine.clearDone_hctx : (e.clearDone).hctx = e.hctx := rfl
@[simp] theorem Engine.clearDone_scr : (e.clearDone).scr = e.scr := rfl
@[simp] theorem Engine.clearDone_cur : (e.clearDone).cur = e.cur := rfl
end Engine_clearDone

section Engine_clearOvr
variable (e : Engine)
@[simp] theorem Engine.clearOvr_ctrl : (e.clearOvr).ctrl = e.ctrl := rfl
@[simp] theorem Engine.clearOvr_busy : (e.clearOvr).status.busy = e.status.busy := rfl
@[simp] theorem Engine.clearOvr_done : (e.clearOvr).status.done = e.status.done := rfl
@[simp] theorem Engine.clearOvr_err : (e.clearOvr).status.err = e.status.err := rfl
@[simp] theorem Engine.clearOvr_ovr : (e.clearOvr).status.ovr = false := rfl
@[simp] theorem Engine.clearOvr_matched : (e.clearOvr).status.matched = e.status.matched := rfl
@[simp] theorem Engine.clearOvr_errcode : (e.clearOvr).status.errcode = e.status.errcode := rfl
@[simp] theorem Engine.clearOvr_cmd : (e.clearOvr).cmd = e.cmd := rfl
@[simp] theorem Engine.clearOvr_src : (e.clearOvr).src = e.src := rfl
@[simp] theorem Engine.clearOvr_dst : (e.clearOvr).dst = e.dst := rfl
@[simp] theorem Engine.clearOvr_len : (e.clearOvr).len = e.len := rfl
@[simp] theorem Engine.clearOvr_aux : (e.clearOvr).aux = e.aux := rfl
@[simp] theorem Engine.clearOvr_ks : (e.clearOvr).ks = e.ks := rfl
@[simp] theorem Engine.clearOvr_chain : (e.clearOvr).chain = e.chain := rfl
@[simp] theorem Engine.clearOvr_hctx : (e.clearOvr).hctx = e.hctx := rfl
@[simp] theorem Engine.clearOvr_scr : (e.clearOvr).scr = e.scr := rfl
@[simp] theorem Engine.clearOvr_cur : (e.clearOvr).cur = e.cur := rfl
end Engine_clearOvr

section Engine_accept
variable (e : Engine) (w : Word)
@[simp] theorem Engine.accept_ctrl : (e.accept w).ctrl = e.ctrl := rfl
@[simp] theorem Engine.accept_busy : (e.accept w).status.busy = true := rfl
@[simp] theorem Engine.accept_done : (e.accept w).status.done = false := rfl
@[simp] theorem Engine.accept_err : (e.accept w).status.err = e.status.err := rfl
@[simp] theorem Engine.accept_ovr : (e.accept w).status.ovr = e.status.ovr := rfl
@[simp] theorem Engine.accept_matched : (e.accept w).status.matched = false := rfl
@[simp] theorem Engine.accept_errcode : (e.accept w).status.errcode = e.status.errcode := rfl
@[simp] theorem Engine.accept_cmd : (e.accept w).cmd = w := rfl
@[simp] theorem Engine.accept_src : (e.accept w).src = e.src := rfl
@[simp] theorem Engine.accept_dst : (e.accept w).dst = e.dst := rfl
@[simp] theorem Engine.accept_len : (e.accept w).len = e.len := rfl
@[simp] theorem Engine.accept_aux : (e.accept w).aux = e.aux := rfl
@[simp] theorem Engine.accept_ks : (e.accept w).ks = e.ks := rfl
@[simp] theorem Engine.accept_chain : (e.accept w).chain = e.chain := rfl
@[simp] theorem Engine.accept_hctx : (e.accept w).hctx = e.hctx := rfl
@[simp] theorem Engine.accept_scr : (e.accept w).scr = e.scr := rfl
@[simp] theorem Engine.accept_cur : (e.accept w).cur = ⟨w, e.src, e.dst, e.len, e.aux⟩ := rfl
end Engine_accept

/-! ## Updates of the machine -/

section State_respond
variable (s : State) (r : Response)
@[simp] theorem State.respond_params : (s.respond r).params = s.params := rfl
@[simp] theorem State.respond_engine : (s.respond r).engine = s.engine := rfl
@[simp] theorem State.respond_resetHeld : (s.respond r).resetHeld = s.resetHeld := rfl
@[simp] theorem State.respond_delay : (s.respond r).delay = s.delay := rfl
@[simp] theorem State.respond_latencyDraws : (s.respond r).latencyDraws = s.latencyDraws := rfl
@[simp] theorem State.respond_readDraws : (s.respond r).readDraws = s.readDraws := rfl
@[simp] theorem State.respond_queue : (s.respond r).queue = s.queue := rfl
@[simp] theorem State.respond_response : (s.respond r).response = some r := rfl
end State_respond

section State_drop
variable (s : State)
@[simp] theorem State.drop_params : (s.drop).params = s.params := rfl
@[simp] theorem State.drop_engine : (s.drop).engine = { s.engine with status := { s.engine.status with ovr := true } } := rfl
@[simp] theorem State.drop_resetHeld : (s.drop).resetHeld = s.resetHeld := rfl
@[simp] theorem State.drop_delay : (s.drop).delay = s.delay := rfl
@[simp] theorem State.drop_latencyDraws : (s.drop).latencyDraws = s.latencyDraws := rfl
@[simp] theorem State.drop_readDraws : (s.drop).readDraws = s.readDraws := rfl
@[simp] theorem State.drop_queue : (s.drop).queue = s.queue := rfl
@[simp] theorem State.drop_response : (s.drop).response = s.response := rfl
end State_drop

section State_resetEngine
variable (s : State)
@[simp] theorem State.resetEngine_params : (s.resetEngine).params = s.params := rfl
@[simp] theorem State.resetEngine_engine : (s.resetEngine).engine = Engine.reset := rfl
@[simp] theorem State.resetEngine_resetHeld : (s.resetEngine).resetHeld = s.resetHeld := rfl
@[simp] theorem State.resetEngine_delay : (s.resetEngine).delay = 0 := rfl
@[simp] theorem State.resetEngine_latencyDraws : (s.resetEngine).latencyDraws = s.latencyDraws := rfl
@[simp] theorem State.resetEngine_readDraws : (s.resetEngine).readDraws = s.readDraws := rfl
@[simp] theorem State.resetEngine_queue : (s.resetEngine).queue = s.queue := rfl
@[simp] theorem State.resetEngine_response : (s.resetEngine).response = s.response := rfl
end State_resetEngine

section State_acceptCommand
variable (s : State) (w : Word)
@[simp] theorem State.acceptCommand_params : (s.acceptCommand w).params = s.params := rfl
@[simp] theorem State.acceptCommand_engine : (s.acceptCommand w).engine = s.engine.accept w := rfl
@[simp] theorem State.acceptCommand_resetHeld : (s.acceptCommand w).resetHeld = s.resetHeld := rfl
@[simp] theorem State.acceptCommand_delay : (s.acceptCommand w).delay = drawLatency s w := rfl
@[simp] theorem State.acceptCommand_latencyDraws : (s.acceptCommand w).latencyDraws = s.latencyDraws + 1 := rfl
@[simp] theorem State.acceptCommand_readDraws : (s.acceptCommand w).readDraws = s.readDraws := rfl
@[simp] theorem State.acceptCommand_queue : (s.acceptCommand w).queue = s.queue := rfl
@[simp] theorem State.acceptCommand_response : (s.acceptCommand w).response = s.response := rfl
end State_acceptCommand

section State_latchDue
variable (s : State) (w : Word)
@[simp] theorem State.latchDue_params : (s.latchDue w).params = s.params := rfl
@[simp] theorem State.latchDue_engine : (s.latchDue w).engine = s.engine.accept w := rfl
@[simp] theorem State.latchDue_resetHeld : (s.latchDue w).resetHeld = s.resetHeld := rfl
@[simp] theorem State.latchDue_delay : (s.latchDue w).delay = 0 := rfl
@[simp] theorem State.latchDue_latencyDraws : (s.latchDue w).latencyDraws = s.latencyDraws := rfl
@[simp] theorem State.latchDue_readDraws : (s.latchDue w).readDraws = s.readDraws := rfl
@[simp] theorem State.latchDue_queue : (s.latchDue w).queue = s.queue := rfl
@[simp] theorem State.latchDue_response : (s.latchDue w).response = s.response := rfl
end State_latchDue

/-! ## The passing of a step -/

@[simp] theorem State.tick_engine (s : State) : s.tick.engine = s.engine := by unfold State.tick; split <;> rfl
@[simp] theorem State.tick_params (s : State) : s.tick.params = s.params := by unfold State.tick; split <;> rfl
@[simp] theorem State.tick_resetHeld (s : State) : s.tick.resetHeld = s.resetHeld := by
  unfold State.tick; split <;> rfl
@[simp] theorem State.tick_latencyDraws (s : State) : s.tick.latencyDraws = s.latencyDraws := by
  unfold State.tick; split <;> rfl
@[simp] theorem State.tick_readDraws (s : State) : s.tick.readDraws = s.readDraws := by
  unfold State.tick; split <;> rfl
@[simp] theorem State.tick_queue (s : State) : s.tick.queue = s.queue := by unfold State.tick; split <;> rfl
@[simp] theorem State.tick_response (s : State) : s.tick.response = s.response := by
  unfold State.tick; split <;> rfl

/-- A step that passes brings a command in flight one step nearer, and does nothing to an idle engine. -/
theorem State.tick_delay (s : State) :
    s.tick.delay = if s.engine.status.busy then s.delay - 1 else s.delay := by
  unfold State.tick; split <;> rfl

end Sys2Proof.Machine
end

