-- ==== Sys2Proof/Laws/Ops.lean ====
section
/-! SUPPORT. What each shared operation of Machine/Ops.lean and Machine/Operands.lean can do, said once. -/

namespace Sys2Proof

/-- The parameter SCRATCH_BYTES fits a 32-bit register and is at least 1024 (R7). -/
theorem Params.scratchBytes_bounds (p : Params) : 1024 ≤ p.scratchBytes ∧ p.scratchBytes ≤ 2 ^ 20 := by
  unfold Params.scratchBytes Params.logScratch
  have h := p.logExtra.isLt
  exact ⟨le_trans (by norm_num) (Nat.pow_le_pow_right (by norm_num) (Nat.le_add_right 10 _)),
    Nat.pow_le_pow_right (by norm_num) (by omega)⟩

/-- SCRATCH_BYTES is a whole number of bus words (R7, R62). -/
theorem Params.scratchBytes_words (p : Params) : 4 ∣ p.scratchBytes := by
  unfold Params.scratchBytes Params.logScratch
  have h : 2 ^ (10 + p.logExtra.val) = 2 ^ 2 * 2 ^ (8 + p.logExtra.val) := by rw [← pow_add]; congr 1; omega
  exact h ▸ Dvd.intro _ rfl

end Sys2Proof

namespace Sys2Proof.Machine

/-! ## Checks and completion -/

/-- A check either lets the pseudocode go on or ends it with its error (R10 `raise`). -/
@[simp] theorem require_bind {α : Type} (b : Bool) (c : CmdError) (f : Unit → Except CmdError α) :
    (require b c >>= f) = if b then f () else .error c := by
  cases b <;> rfl

@[simp] theorem complete_ok (s : State) (e : Engine) :
    complete s (.ok e) = .next { s with engine := e.succeed } := rfl

@[simp] theorem complete_error (s : State) (c : CmdError) :
    complete s (.error c) = .next { s with engine := s.engine.cmdError c } := rfl

/-- Everything a completion can do: it answers a next state, the success of what the pseudocode leaves, or
the command error it raises with nothing else changed (R37, R312, R320). -/
theorem complete_cases (s : State) (r : Except CmdError Engine) :
    (∃ e, r = .ok e ∧ complete s r = .next { s with engine := e.succeed }) ∨
    (∃ c, r = .error c ∧ complete s r = .next { s with engine := s.engine.cmdError c }) := by
  cases r with
  | ok e => exact .inl ⟨e, rfl, rfl⟩
  | error c => exact .inr ⟨c, rfl, rfl⟩

/-- What every completion leaves outside the engine, and that the engine is idle after it (R37). -/
theorem complete_frame {s t : State} {r : Except CmdError Engine} (h : complete s r = .next t) :
    t.params = s.params ∧ t.queue = s.queue ∧ t.resetHeld = s.resetHeld ∧ t.delay = s.delay ∧
      t.engine.status.busy = false := by
  cases r with
  | ok e => rw [complete_ok] at h; cases h; exact ⟨rfl, rfl, rfl, rfl, rfl⟩
  | error c => rw [complete_error] at h; cases h; exact ⟨rfl, rfl, rfl, rfl, rfl⟩

/-- `in_range` as arithmetic (R313). -/
theorem State.inRange_iff (s : State) (off n : Nat) :
    s.inRange off n = true ↔ off + n ≤ s.params.scratchBytes := by
  simp [State.inRange]

theorem State.wholeBlocks_iff (s : State) : s.wholeBlocks = true ↔ s.engine.cur.len.toNat % 16 = 0 := by
  simp [State.wholeBlocks, State.lenCount]

/-! ## Key slots -/

/-- Writing a slot changes that slot and no other (R33). -/
theorem getElem_setSlot (e : Engine) (k j : Fin 4) (x : KeySlot) :
    (e.setSlot k x).ks[j] = if j = k then x else e.ks[j] := by
  show (e.ks.set k x)[j.val] = _
  rw [Vector.getElem_set]
  by_cases h : j = k
  · simp [h]
  · have : k.val ≠ j.val := fun h' => h (Fin.ext h'.symm)
    simp [h, this]

@[simp] theorem getElem_clearAllKeys (e : Engine) (j : Fin 4) : e.clearAllKeys.ks[j] = KeySlot.cleared := by
  show (Vector.replicate 4 KeySlot.cleared)[j.val] = _
  simp

/-- Every slot of the reset engine is cleared (R41). -/
@[simp] theorem getElem_reset_ks (j : Fin 4) : Engine.reset.ks[j] = KeySlot.cleared := by
  show (Vector.replicate 4 KeySlot.cleared)[j.val] = _
  simp

/-! ## The loops of AESENC and AESDEC -/

theorem encLoop_succ (key : Key) (src dst n : Nat) (x : CbcState) :
    encLoop key src dst (n + 1) x = encLoop key (src + 16) (dst + 16) n (encBlock key src dst x) := rfl

theorem decLoop_succ (key : Key) (src dst n : Nat) (x : CbcState) :
    decLoop key src dst (n + 1) x = decLoop key (src + 16) (dst + 16) n (decBlock key src dst x) := rfl

/-- What reading any byte gives after one block of AESENC's loop. -/
theorem read_encBlock {key : Key} {src dst : Nat} {x : CbcState} (h : x.scr.wf = true) (a : Nat) :
    (encBlock key src dst x).scr.read a =
      if dst ≤ a ∧ a < dst + 16 then (encBlock key src dst x).chain.toList.getD (a - dst) 0 else x.scr.read a := by
  simp [encBlock, Memory.read_writeBytes h]

/-- What reading a byte outside the block gives after one block of AESDEC's loop. -/
theorem read_decBlock {key : Key} {src dst : Nat} {x : CbcState} (h : x.scr.wf = true) {a : Nat}
    (ha : ¬(dst ≤ a ∧ a < dst + 16)) : (decBlock key src dst x).scr.read a = x.scr.read a := by
  show (x.scr.writeBytes _ _).read _ = _
  rw [Memory.read_writeBytes h, if_neg]
  simpa using ha

/-- AESENC's loop changes no byte outside its destination range. -/
theorem read_encLoop {key : Key} {n src dst : Nat} {x : CbcState} (h : x.scr.wf = true) {a : Nat}
    (ha : ¬(dst ≤ a ∧ a < dst + 16 * n)) : (encLoop key src dst n x).scr.read a = x.scr.read a := by
  induction n generalizing src dst x with
  | zero => rfl
  | succ n ih =>
    rw [encLoop_succ, ih (Memory.wf_writeBytes h _ _) (by omega), read_encBlock h, if_neg (by omega)]

/-- AESDEC's loop changes no byte outside its destination range. -/
theorem read_decLoop {key : Key} {n src dst : Nat} {x : CbcState} (h : x.scr.wf = true) {a : Nat}
    (ha : ¬(dst ≤ a ∧ a < dst + 16 * n)) : (decLoop key src dst n x).scr.read a = x.scr.read a := by
  induction n generalizing src dst x with
  | zero => rfl
  | succ n ih =>
    rw [decLoop_succ, ih (Memory.wf_writeBytes h _ _) (by omega), read_decBlock h (by omega)]

/-- The loop keeps the canonical form and, inside the scratch, the bound of its entries. -/
theorem encLoop_scr {key : Key} {n src dst : Nat} {x : CbcState} {lim : Nat} (h : x.scr.wf = true)
    (hi : x.scr.inside lim = true) (hd : dst + 16 * n ≤ lim) :
    (encLoop key src dst n x).scr.wf = true ∧ (encLoop key src dst n x).scr.inside lim = true := by
  induction n generalizing src dst x with
  | zero => exact ⟨h, hi⟩
  | succ n ih =>
    exact ih (Memory.wf_writeBytes h _ _)
      (Memory.inside_writeBytes _ hi (by simp only [Vector.length_toList]; omega)) (by omega)

/-- The loop of AESDEC keeps the canonical form and, inside the scratch, the bound of its entries. -/
theorem decLoop_scr {key : Key} {n src dst : Nat} {x : CbcState} {lim : Nat} (h : x.scr.wf = true)
    (hi : x.scr.inside lim = true) (hd : dst + 16 * n ≤ lim) :
    (decLoop key src dst n x).scr.wf = true ∧ (decLoop key src dst n x).scr.inside lim = true := by
  induction n generalizing src dst x with
  | zero => exact ⟨h, hi⟩
  | succ n ih =>
    exact ih (Memory.wf_writeBytes h _ _)
      (Memory.inside_writeBytes _ hi (by simp only [Vector.length_toList]; omega)) (by omega)

/-! ## The host's side -/

/-- Everything a CMD write can do: it is accepted, or dropped with OVR (R29). -/
theorem writeCmd_cases (w : Word) (s : State) :
    (s.engine.status.busy = false ∧ s.engine.status.err = false ∧ writeCmd w s = s.acceptCommand w) ∨
    ((s.engine.status.busy = true ∨ s.engine.status.err = true) ∧ writeCmd w s = s.drop) := by
  unfold writeCmd
  cases hb : s.engine.status.busy <;> cases he : s.engine.status.err <;> simp

/-- Everything an operand write can do (R30, R31). -/
theorem writeOperand_cases (set : Engine → Engine) (s : State) :
    (s.engine.status.busy = false ∧ writeOperand set s = { s with engine := set s.engine }) ∨
    (s.engine.status.busy = true ∧ writeOperand set s = s.drop) := by
  unfold writeOperand
  cases hb : s.engine.status.busy <;> simp

/-- The latency drawn at an acceptance is at most MAX_LATENCY (R354). -/
theorem drawLatency_le (s : State) (w : Word) :
    drawLatency s w ≤ Config.freeMaxLatency (fieldOpc w) s.engine.len s.engine.hctx.msgLength :=
  Nat.lt_succ_iff.1 (Nat.mod_lt _ (Nat.succ_pos _))

end Sys2Proof.Machine
end

