-- ==== Sys2Proof/Laws/Bus.lean ====
section
/-! SUPPORT. Host accesses that the engine answers, as reads and writes of its windows, and how one access is
served. -/

namespace Sys2Proof

/-- The register window and the smallest scratch are inside the bus window (R61). -/
theorem Params.registers_inside (p : Params) : 0x1000 + 1024 ≤ p.windowBytes := by
  have := (Params.scratchBytes_bounds p).1
  unfold Params.windowBytes
  omega

end Sys2Proof

namespace Sys2Proof.Machine

/-- An aligned 32-bit read inside the window is a read of the window (R61, R62). -/
theorem hostRead_window {off : Nat} {s : State} (h : s.resetHeld = false) (ho : off < s.params.windowBytes)
    (h4 : off % 4 = 0) : hostRead off s = readWindow off s := by
  simp only [hostRead, busAccess, h, Access.addr, State.inWindow, Access.width, accessOk]
  simp [ho, h4]

/-- An aligned 32-bit write inside the window is a write of the window (R61, R62). -/
theorem hostWrite_window {off : Nat} {v : Word} {s : State} (h : s.resetHeld = false)
    (ho : off < s.params.windowBytes) (h4 : off % 4 = 0) :
    hostWrite off v s = (writeWindow off v s).respond .ack := by
  simp only [hostWrite, busAccess, h, Access.addr, State.inWindow, Access.width, accessOk]
  simp [ho, h4]

theorem regAt_offset (r : Reg) : regAt r.offset = some r ∧ r.offset < 0x1000 ∧ r.offset % 4 = 0 := by
  cases r <;> decide

/-- A host read at a register's offset answers the register's value and changes nothing else (R69). -/
theorem hostRead_reg (r : Reg) {s : State} (h : s.resetHeld = false) :
    hostRead r.offset s = s.respond (.data (readReg s.params s.engine r)) := by
  obtain ⟨h1, h2, h3⟩ := regAt_offset r
  rw [hostRead_window h (lt_of_lt_of_le h2 (by have := Params.registers_inside s.params; omega)) h3, readWindow,
    if_pos (show r.offset < scratchWindow from h2), h1]

/-- A host write at a register's offset is that register's write (R22 to R31). -/
theorem hostWrite_reg (r : Reg) (v : Word) {s : State} (h : s.resetHeld = false) :
    hostWrite r.offset v s = (writeReg r v s).respond .ack := by
  obtain ⟨h1, h2, h3⟩ := regAt_offset r
  rw [hostWrite_window h (lt_of_lt_of_le h2 (by have := Params.registers_inside s.params; omega)) h3, writeWindow,
    if_pos (show r.offset < scratchWindow from h2), h1]

/-- A step at which no command is due is the host's. -/
theorem State.after_of_not_due {s : State} (h : s.due = false) : s.after = hostStep s := by
  unfold State.after step
  rw [if_neg (by simp [h])]

/-- While no command is due and no event waits, an access is served in one step (R70). -/
theorem serve_of_not_due (a : Access) {s : State} (hq : s.queue = []) (hd : s.due = false) :
    serve a s = busAccess a { s.tick with queue := [] } := by
  have h2 : ({ s with queue := .access a :: s.queue } : State).due = false := hd
  rw [serve, if_neg (by simp [hd]), State.after_of_not_due h2, hq]
  have h3 : ({ s with queue := [.access a] } : State).tick = { s.tick with queue := [.access a] } := by
    unfold State.tick
    split <;> simp_all
  simp only [hostStep, h3]
  rfl

end Sys2Proof.Machine
end

