-- ==== Sys2Proof/Laws/Bytes.lean ====
section
/-! SUPPORT. Lengths of byte strings, and the passage between byte strings and strings whose length is
their type. -/

namespace Sys2Proof.Machine

@[simp] theorem length_rep (n : Nat) (b : Byte) : (rep n b).length = n := by simp [rep]

@[simp] theorem length_zeros (n : Nat) : (zeros n).length = n := by simp [zeros]

@[simp] theorem length_beBytes (k n : Nat) : (beBytes k n).length = k := by simp [beBytes]

@[simp] theorem length_leBytes (k n : Nat) : (leBytes k n).length = k := by simp [leBytes]

@[simp] theorem length_be32 (w : Word) : (be32 w).length = 4 := rfl

@[simp] theorem length_xorBytes (a b : Bytes) : (xorBytes a b).length = min a.length b.length := by
  simp [xorBytes]

@[simp] theorem length_shaBytes (x : ShaState) : (shaBytes x).length = 32 := rfl

/-- `sha256(m)` "returns 32 bytes" (R12). -/
@[simp] theorem length_sha256 (m : Bytes) : (sha256 m).length = 32 := length_shaBytes _

/-- `hmac_sha256(key, m)` "returns 32 bytes" (R14). -/
@[simp] theorem length_hmacSha256 (key : Key) (m : Bytes) : (hmacSha256 key m).length = 32 := length_sha256 _

@[simp] theorem getElem_toVec (n : Nat) (s : Bytes) (i : Nat) (h : i < n) : (toVec n s)[i] = s.getD i 0 := by
  simp [toVec]

/-- A string of length `n` loses nothing in `toVec n`. -/
theorem toList_toVec {n : Nat} {s : Bytes} (h : s.length = n) : (toVec n s).toList = s := by
  apply List.ext_getElem
  · simp [h]
  · intro i h1 h2
    simp [toVec, List.getElem?_eq_getElem h2]

theorem toVec_toList {n : Nat} (v : Vector Byte n) : toVec n v.toList = v := by
  ext i hi
  simp [toVec, List.getD]

@[simp] theorem length_passwordBytes (pw : List (BitVec 16)) : (passwordBytes pw).length = 2 * pw.length := by
  induction pw with
  | nil => rfl
  | cons u us ih =>
    have : passwordBytes (u :: us) = le16 u ++ passwordBytes us := rfl
    simp only [this, List.length_append, ih, le16, length_leBytes, List.length_cons]; omega

/-- A KDF round keeps the buffer's length (R120). -/
theorem length_kdfRound {w : Bytes} (h : 32 ≤ w.length) : (kdfRound w).length = w.length := by
  simp [kdfRound]; omega

end Sys2Proof.Machine
end

