-- ==== Sys2Proof/Laws/Encoding.lean ====
section
/-! SUPPORT. Every instruction is well formed, and the fields of the words the encoder writes. -/

namespace Sys2Proof

/-- An ill-formed instruction cannot be built (R33). -/
theorem Instr.wellFormed_all (i : Instr) : i.wellFormed = true := by
  cases i <;> simp [Instr.wellFormed, Instr.slot, slotOk]

/-- A word is the sum of its four fields at their bit positions (R90). -/
theorem word_toNat_fields (w : Word) :
    w.toNat = (fieldOpc w).toNat + 2 ^ 8 * (fieldKs w).toNat + 2 ^ 10 * (fieldAll w).toNat +
      2 ^ 11 * (fieldRsv w).toNat := by
  have h := w.isLt
  have hb : (fieldAll w).toNat = w.toNat / 1024 % 2 := by
    simp only [fieldAll, BitVec.getLsbD, Nat.testBit, Nat.shiftRight_eq_div_pow, Nat.one_and_eq_mod_two]
    rcases Nat.mod_two_eq_zero_or_one (w.toNat / 2 ^ 10) with h2 | h2
    · rw [h2]; norm_num at h2 ⊢; simp only [h2]
    · rw [h2]; norm_num at h2 ⊢; simp only [h2]; rfl
  rw [hb]
  simp only [fieldOpc, fieldKs, fieldRsv, BitVec.extractLsb'_toNat, Nat.shiftRight_eq_div_pow]
  omega

/-- The bytes of a word, put together again, are the word (R63). -/
theorem wordOfBytes_extract (w : Word) :
    wordOfBytes (w.extractLsb' 0 8) (w.extractLsb' 8 8) (w.extractLsb' 16 8) (w.extractLsb' 24 8) = w := by
  apply BitVec.eq_of_toNat_eq
  have h := w.isLt
  simp only [wordOfBytes, BitVec.toNat_append, BitVec.extractLsb'_toNat, Nat.shiftRight_eq_div_pow]
  rw [← Nat.shiftLeft_add_eq_or_of_lt (by omega), ← Nat.shiftLeft_add_eq_or_of_lt (by omega),
    ← Nat.shiftLeft_add_eq_or_of_lt (by omega)]
  simp only [Nat.shiftLeft_eq]
  omega

end Sys2Proof
end

