-- ==== Sys2Proof/Laws/PerInstr.lean ====
section
/-! SUPPORT. The families of statements made per instruction: one lemma per constructor of `Instr`. -/

namespace Sys2Proof.Laws

/-- The word an instruction is encoded as is legal (R94), its reserved bits are 0 (R90), and its KS field
names the instruction's slot, or is 0 where the row uses none (R92). -/
def EncodeLegal.Statement (i : Instr) : Prop :=
  legal (encode i) = true ∧ fieldRsv (encode i) = 0 ∧
    (fieldKs (encode i)).toNat = (i.slot.map Fin.val).getD 0

theorem EncodeLegal.nop : EncodeLegal.Statement .nop := by unfold Statement; decide
theorem EncodeLegal.kdf (k : Fin 4) : EncodeLegal.Statement (.kdf k) := by revert k; unfold Statement; decide
theorem EncodeLegal.keyload (k : Fin 4) : EncodeLegal.Statement (.keyload k) := by revert k; unfold Statement; decide
theorem EncodeLegal.keyzero (k : Fin 4) : EncodeLegal.Statement (.keyzero k) := by revert k; unfold Statement; decide
theorem EncodeLegal.keyzeroAll : EncodeLegal.Statement .keyzeroAll := by unfold Statement; decide
theorem EncodeLegal.ivload : EncodeLegal.Statement .ivload := by unfold Statement; decide
theorem EncodeLegal.ivstore : EncodeLegal.Statement .ivstore := by unfold Statement; decide
theorem EncodeLegal.aesenc (k : Fin 4) : EncodeLegal.Statement (.aesenc k) := by revert k; unfold Statement; decide
theorem EncodeLegal.aesdec (k : Fin 4) : EncodeLegal.Statement (.aesdec k) := by revert k; unfold Statement; decide
theorem EncodeLegal.hmacinit (k : Fin 4) : EncodeLegal.Statement (.hmacinit k) := by revert k; unfold Statement; decide
theorem EncodeLegal.hmacupd : EncodeLegal.Statement .hmacupd := by unfold Statement; decide
theorem EncodeLegal.hmacfin : EncodeLegal.Statement .hmacfin := by unfold Statement; decide
theorem EncodeLegal.cmp : EncodeLegal.Statement .cmp := by unfold Statement; decide
theorem EncodeLegal.scrub : EncodeLegal.Statement .scrub := by unfold Statement; decide
theorem EncodeLegal.ctxclear : EncodeLegal.Statement .ctxclear := by unfold Statement; decide

end Sys2Proof.Laws
end

