-- ==== Sys2Proof/Machine/Platform.lean ====
section
/-! DEFINITION. Several engines on one platform (20_memory.md R76, 60_exceptions.md R325): a list of machines,
each with its own parameters and state, that share nothing. -/

namespace Sys2Proof.Machine

/-- The instances of a platform. Each counts its own draws of the free functions that they all share
(log entries 3, 4 and 19). -/
abbrev Platform := List State

/-- One step of instance `n`; the others do not move, and no step reads another instance (R76, R325). -/
def Platform.stepOf (n : Nat) (p : Platform) : Platform := p.modify n State.after

/-- A host access reaches each instance whose window holds its address, and no other (R61, R325). -/
def Platform.access (a : Access) (p : Platform) : Platform :=
  p.map fun s => if s.inWindow a.addr then serve a s else s

/-- No two windows overlap, so that an access reaches at most one instance (R325). -/
def Platform.disjoint (p : Platform) : Bool :=
  decide (p.Pairwise fun s t =>
    s.params.engineBase + s.params.windowBytes ≤ t.params.engineBase ∨
      t.params.engineBase + t.params.windowBytes ≤ s.params.engineBase)

end Sys2Proof.Machine
end

