-- ==== Sys2Proof/Tests/Slice0.lean ====
section
/-! SUPPORT. Tests of the model. Every expected value is from spec/95_test_vectors.md or the rule the comment
names; `witness_<Name>` shows a state and operands that meet the hypotheses of `Obligations.<Name>`. -/

namespace Sys2Proof.Tests

open Sys2Proof.Machine

-- One theorem at a time: each `decide +kernel` waits for the kernel, and a thread of its own would wait with it.
set_option Elab.async false

/-! ## Helpers -/

/-- The `n` bytes whose hexadecimal writing is `v`, the first byte leftmost. -/
def hex (n v : Nat) : Bytes := beBytes n v

/-- The default engine (4096 bytes of scratch) at bus address 0, after reset, with the bytes `s` in scratch
from offset 0. -/
def fresh (s : Bytes) : State :=
  { State.resetWith ⟨2, 0⟩ with engine := Engine.reset.memWrite 0 s }

/-- `s` with the operand registers written. -/
def State.withOperands (s : State) (src dst len aux : Word) : State :=
  { s with engine := { s.engine with src := src, dst := dst, len := len, aux := aux } }

/-- `s` after the command `w` with these operands has been accepted and has completed. -/
def run (w src dst len aux : Word) (s : State) : State :=
  ((State.withOperands s src dst len aux).latchDue w).after

/-- What a read of STATUS returns after the command `w`. -/
def statusAfter (w src dst len aux : Word) (s : State) : Word :=
  statusWord (run w src dst len aux s).engine

/-- `s` with slot `k` holding a key and CHAIN a block, both valid. -/
def State.loaded (s : State) (k : Fin 4) (key : Key) (iv : Block) : State :=
  { s with engine := (s.engine.loadKey k key).setChain ⟨iv, true⟩ }

/-- `s` with an HMAC context. -/
def State.macActive (s : State) (key : Key) (msg : Bytes) : State :=
  { s with engine := s.engine.setHctx (.active key msg) }

/-- `s` with the command `w` and these operands in flight and due. -/
def dueNow (w src dst len aux : Word) (s : State) : State := (State.withOperands s src dst len aux).latchDue w

/-- `00..1f`, a key. -/
def key00 : Key := toVec 32 (hex 32 0x000102030405060708090a0b0c0d0e0f101112131415161718191a1b1c1d1e1f)

/-- The zero key. -/
def key0 : Key := Vector.replicate 32 0

/-- The zero block. -/
def block0 : Block := Vector.replicate 16 0

/-- Another key and another block. -/
def key1 : Key := Vector.replicate 32 1
def block1 : Block := Vector.replicate 16 1

/-! ## Well-formedness and illegal words -/

theorem test_slot_3_is_well_formed : slotOk 3 = true := by decide

/-- R33: a slot number beyond 3 is none of the four. -/
theorem test_slot_4_is_ill_formed : slotOk 4 = false := by decide

/-- R316: the illegal words of 95_test_vectors.md L2.5, each with the clause it breaks. -/
theorem test_illegal_words :
    decodeWord 0x00000104 = .error .slotNotAllowed ∧ decodeWord 0x0000000E = .error .reservedOpcode ∧
    decodeWord 0x000000FF = .error .reservedOpcode ∧ decodeWord 0x00000800 = .error .reservedBits ∧
    decodeWord 0x00000503 = .error .slotNotAllowed ∧ decodeWord 0x0000010C = .error .slotNotAllowed ∧
    decodeWord 0x00000401 = .error .allNotAllowed := ⟨rfl, rfl, rfl, rfl, rfl, rfl, rfl⟩

/-- R94: the same words by `legal`. -/
theorem test_illegal_words_by_legal :
    ([0x104, 0xE, 0xFF, 0x800, 0x503, 0x10C, 0x401] : List Word).all (fun w => !legal w) = true := by decide

/-- R96: a command word is four bytes, no fewer and no more. -/
theorem test_decode_needs_one_word :
    decode [0x06, 0x01, 0x00] = .error .notOneWord ∧
    decode [0x06, 0x01, 0x00, 0x00, 0x00] = .error .notOneWord := ⟨rfl, rfl⟩

/-! ## Decoding: words written out from R90 (RSV, ALL, KS, OPC) and R92 -/

theorem test_decode_nop : decodeWord 0b00000000000000000000000000000000 = .ok .nop := rfl
theorem test_decode_kdf : decodeWord 0b00000000000000000000001100000001 = .ok (.kdf 3) := rfl
theorem test_decode_keyload : decodeWord 0b00000000000000000000000100000010 = .ok (.keyload 1) := rfl
theorem test_decode_keyzero : decodeWord 0b00000000000000000000001000000011 = .ok (.keyzero 2) := rfl
theorem test_decode_keyzeroAll : decodeWord 0b00000000000000000000010000000011 = .ok .keyzeroAll := rfl
theorem test_decode_ivload : decodeWord 0b00000000000000000000000000000100 = .ok .ivload := rfl
theorem test_decode_ivstore : decodeWord 0b00000000000000000000000000000101 = .ok .ivstore := rfl
theorem test_decode_aesenc : decodeWord 0b00000000000000000000000100000110 = .ok (.aesenc 1) := rfl
theorem test_decode_aesdec : decodeWord 0b00000000000000000000001000000111 = .ok (.aesdec 2) := rfl
theorem test_decode_hmacinit : decodeWord 0b00000000000000000000001100001000 = .ok (.hmacinit 3) := rfl
theorem test_decode_hmacupd : decodeWord 0b00000000000000000000000000001001 = .ok .hmacupd := rfl
theorem test_decode_hmacfin : decodeWord 0b00000000000000000000000000001010 = .ok .hmacfin := rfl
theorem test_decode_cmp : decodeWord 0b00000000000000000000000000001011 = .ok .cmp := rfl
theorem test_decode_scrub : decodeWord 0b00000000000000000000000000001100 = .ok .scrub := rfl
theorem test_decode_ctxclear : decodeWord 0b00000000000000000000000000001101 = .ok .ctxclear := rfl

/-- R63, R100: the bytes of AESENC k1 as the bus stores them. -/
theorem test_decode_bytes : decode [0x06, 0x01, 0x00, 0x00] = .ok (.aesenc 1) := rfl

/-- R100: "`KEYZERO all` writes CMD = 0x00000403". -/
theorem test_encode_keyzeroAll : encode .keyzeroAll = 0x00000403 := by decide

/-! ## The algorithms -/

/-- G-SHA-1 of L1-G. -/
theorem test_sha256_abc : sha256 [0x61, 0x62, 0x63] =
    hex 32 0xba7816bf8f01cfea414140de5dae2223b00361a396177a9cb410ff61f20015ad := by decide +kernel

/-- G-AES-1 of L1-G. -/
theorem test_aes256_enc : aes256Enc key00 (toVec 16 (hex 16 0x00112233445566778899aabbccddeeff)) =
    toVec 16 (hex 16 0x8ea2b7ca516745bfeafc49904b496089) := by decide +kernel

/-- V-AES-4 of L2.3: decryption under the zero key. -/
theorem test_aes256_dec : aes256Dec key0 block0 =
    toVec 16 (hex 16 0x67671ce1fa91ddeb0f8fbbb366b531b4) := by decide +kernel

/-- V-MAC-4 of L2.2. -/
theorem test_hmac_abc : hmacSha256 key0 [0x61, 0x62, 0x63] =
    hex 32 0xfd7adb152c05ef80dccf50a1fa4c05d5a3ec6da95575fc312ae7c5d091836351 := by decide +kernel

/-- The intermediate value of V-KDF-1 (L2.1): the buffer's first 32 bytes after one round. -/
theorem test_kdf_first_round :
    (kdfRound (kdfBuffer (toVec 16 (hex 16 0x000102030405060708090a0b0c0d0e0f))
      (passwordBytes [0x74, 0x65, 0x73, 0x74]))).take 32 =
    hex 32 0xcfc7c3e412f7daea5408b9fd2322c2e929b87d9078fc3eaf2a4487087396ff88 := by decide +kernel

/-- The encoding example of R122. -/
theorem test_passwordBytes :
    passwordBytes [0x00E9, 0x20AC, 0xD83D, 0xDE00] = hex 8 0xe900ac203dd800de := by decide +kernel

/-- R355's boundary: one compression a round to 11 code units, two from 12 (L1.1). -/
theorem test_work_of_kdf : shaBlockCount (32 + 2 * 11) = 1 ∧ shaBlockCount (32 + 2 * 12) = 2 := by decide

/-! ## One step of each command (STATUS values of L2.1 to L2.4) -/

theorem test_nop_status : statusAfter 0x000 0 0 0 0 (fresh []) = 0x00000002 := by decide +kernel

/-- L2.1: the salt at the very end and an empty password at the end of scratch. -/
theorem test_kdf_at_the_end : statusAfter 0x001 4080 0 0 4096 (fresh []) = 0x00010002 := by decide +kernel

/-- L2.1: `2 * LEN = 2^32` does not wrap around. -/
theorem test_kdf_len_does_not_wrap : statusAfter 0x001 0 0 0x80000000 0 (fresh []) = 0x00000204 := by
  decide +kernel

theorem test_keyload_slot_3 : statusAfter 0x302 4064 0 0 0 (fresh []) = 0x00080002 := by decide +kernel

theorem test_keyload_copies : (run 0x302 1 0 0 0 (fresh (hex 4 0xaabbccdd))).engine.ks[3].value.toList =
    hex 3 0xbbccdd ++ zeros 29 := by decide +kernel

/-- L2.4: KEYZERO k3 with slots 0 and 3 valid. -/
theorem test_keyzero_one : statusAfter 0x303 0 0 0 0 (run 0x302 0 0 0 0 (run 0x002 0 0 0 0 (fresh []))) =
    0x00010002 := by decide +kernel

/-- L2.4: KEYZERO all. -/
theorem test_keyzero_all : statusAfter 0x403 0 0 0 0 (run 0x302 0 0 0 0 (run 0x002 0 0 0 0 (fresh []))) =
    0x00000002 := by decide +kernel

theorem test_ivload_past_end : statusAfter 0x004 4081 0 0 0 (fresh []) = 0x00000204 := by decide +kernel

/-- L2.3: IVSTORE at an unaligned offset. -/
theorem test_ivload_ivstore :
    let t := run 0x005 0 0x31 0 0 (run 0x004 1 0 0 0 (fresh (hex 4 0x00a1b2c3)))
    t.engine.scr.readBytes 0x30 5 = hex 5 0x00a1b2c300 ∧ statusWord t.engine = 0x00000042 := by decide +kernel

/-- L2.3: BAD_RANGE before IV_NOT_LOADED. -/
theorem test_ivstore_priority : statusAfter 0x005 0 4081 0 0 (fresh []) = 0x00000204 := by decide +kernel

/-- V-AES-1 with STATUS, in place. -/
theorem test_aesenc :
    let t := run 0x006 0 0 16 0 (State.loaded (fresh (hex 16 0x00112233445566778899aabbccddeeff)) 0 key00 block0)
    t.engine.scr.readBytes 0 16 = hex 16 0x8ea2b7ca516745bfeafc49904b496089 ∧
    statusWord t.engine = 0x00010042 := by decide +kernel

/-- L2.3: BAD_RANGE before BAD_LENGTH. -/
theorem test_aesenc_priority : statusAfter 0x006 0 0x0FFF 15 0 (fresh []) = 0x00000204 := by decide +kernel

/-- V-AES-1 back: the plaintext, and CHAIN the ciphertext block (R174). -/
theorem test_aesdec :
    let t := run 0x007 0 16 16 0 (State.loaded (fresh (hex 16 0x8ea2b7ca516745bfeafc49904b496089)) 0 key00 block0)
    t.engine.scr.readBytes 16 16 = hex 16 0x00112233445566778899aabbccddeeff ∧
    t.engine.chain.value.toList = hex 16 0x8ea2b7ca516745bfeafc49904b496089 := by decide +kernel

/-- L2.3: AESDEC with ALL = 1. -/
theorem test_aesdec_all_is_illegal : statusAfter 0x407 0 0 16 0 (State.loaded (fresh []) 0 key00 block0) =
    0x00010144 := by decide +kernel

theorem test_hmacinit_key_not_loaded : statusAfter 0x208 0 0 0 0 (fresh []) = 0x00000404 := by decide +kernel

/-- L2.2: HMACINIT k1, then HMACUPD: DONE, HMAC_ACTIVE and KEY_VALID 1. -/
theorem test_hmacupd_status :
    statusAfter 0x009 0 0 3 0 (run 0x108 0 0 0 0 (run 0x102 32 0 0 0 (fresh (hex 3 0x616263)))) = 0x00020022 := by
  decide +kernel

/-- L2.2: BAD_RANGE before NO_HMAC_CONTEXT. -/
theorem test_hmacupd_priority : statusAfter 0x009 0x1000 0 1 0 (fresh []) = 0x00000204 := by decide +kernel

/-- L2.2: the tag of "abc" overwrites its own message. -/
theorem test_hmacfin : (run 0x00A 0 0 0 0 (State.macActive (fresh (hex 3 0x616263)) key0 (hex 3 0x616263))
      ).engine.scr.readBytes 0 32 =
    hex 32 0xfd7adb152c05ef80dccf50a1fa4c05d5a3ec6da95575fc312ae7c5d091836351 := by decide +kernel

theorem test_hmacfin_no_context : statusAfter 0x00A 0 0 0 0 (fresh []) = 0x00000604 := by decide +kernel

/-- L2.2: the differing byte inside the compared range. -/
theorem test_cmp_differ : statusAfter 0x00B 0 0 4 4 (fresh (hex 8 0x0102030401020305)) = 0x00000002 := by
  decide +kernel

/-- L2.2: the differing byte outside the compared range. -/
theorem test_cmp_equal : statusAfter 0x00B 0 0 3 4 (fresh (hex 8 0x0102030401020305)) = 0x00000012 := by
  decide +kernel

/-- L2.4: SCRUB 0x005, 3. -/
theorem test_scrub : (run 0x00C 0 5 3 0 (fresh (hex 8 0x0001020304050607))).engine.scr.readBytes 0 8 =
    hex 8 0x0001020304000000 := by decide +kernel

theorem test_scrub_past_end : statusAfter 0x00C 0 0x1000 1 0 (fresh []) = 0x00000204 := by decide +kernel

/-- L2.4: CTXCLEAR with CHAIN valid and HCTX active. -/
theorem test_ctxclear :
    statusAfter 0x00D 0 0 0 0 (State.macActive (State.loaded (fresh []) 2 key00 block0) key0 []) = 0x00040002 := by
  decide +kernel

/-! ## The bus (L2.6) -/

theorem test_read_param : (hostRead 0x004 (fresh [])).response = some (.data 0x2000040C) := by decide +kernel

/-- L2.6: the bus write of "41455302" is `W 0x1000, 0x02534541`. -/
theorem test_scratch_write_is_little_endian :
    (hostWrite 0x1000 0x02534541 (fresh [])).engine.scr.readBytes 0 4 = hex 4 0x41455302 := by decide +kernel

/-- L2.6: `W STATUS, 0xFFFFFFF0` after a NOP. -/
theorem test_status_write_clears_only_its_bits :
    statusWord (hostWrite 0x00C 0xFFFFFFF0 (run 0x000 0 0 0 0 (fresh []))).engine = 0x00000002 := by
  decide +kernel

/-- R340: no access is accepted while the reset input is asserted. -/
theorem test_held_in_reset :
    (hostWrite 0x014 5 (resetInput true (fresh []))).response = some .notAccepted := by decide +kernel

/-! ## Witnesses: encoding and step -/

theorem witness_DecodeEncodeAgree :
    (Instr.kdf 3).wellFormed = true ∧ decodeWord 0x00000301 = .ok (.kdf 3) := ⟨by decide, rfl⟩

theorem witness_FormsAreDisjoint : (∃ r ∈ formTable, r.matches 0x00000306 = true) := by decide

theorem witness_StepRunsDecodedCommand :
    (dueNow 0x306 0 0 0 0 (fresh [])).engine.status.busy = true ∧ (dueNow 0x306 0 0 0 0 (fresh [])).delay = 0 ∧
    decodeWord (dueNow 0x306 0 0 0 0 (fresh [])).engine.cur.word = .ok (.aesenc 3) := ⟨rfl, rfl, rfl⟩

theorem witness_IllegalWordCompletesWithIllegalCmd :
    (dueNow 0x503 0 0 0 0 (fresh [])).engine.status.busy = true ∧ (dueNow 0x503 0 0 0 0 (fresh [])).delay = 0 ∧
    legal (dueNow 0x503 0 0 0 0 (fresh [])).engine.cur.word = false := ⟨rfl, rfl, by decide⟩

theorem witness_StepServesNextEvent :
    let s := { fresh [] with queue := [.access (.read .w32 0x00C)] }
    s.due = false ∧ s.queue = .access (.read .w32 0x00C) :: [] := ⟨rfl, rfl⟩

/-- A state of the invariant other than the reset state: a command in flight over non-zero scratch. -/
theorem witness_inv : (dueNow 0x00C 0 0 4096 0 (fresh [0x01])).Inv := by constructor <;> decide +kernel

theorem witness_StepKeepsInv :
    (dueNow 0x00C 0 0 4096 0 (fresh [0x01])).Inv ∧ ∃ t, step (dueNow 0x00C 0 0 4096 0 (fresh [0x01])) = .next t :=
  ⟨witness_inv, _, rfl⟩

/-! ## Witnesses: commands, at the ends of their ranges -/

theorem witness_KdfWritesDerivedKey :
    let s := dueNow 0x001 4080 0 0 4096 (fresh [])
    s.engine.cur.src.toNat + 16 ≤ s.params.scratchBytes ∧
    s.engine.cur.aux.toNat + 2 * s.engine.cur.len.toNat ≤ s.params.scratchBytes := by decide +kernel

theorem witness_KeyloadCopiesScratch :
    let s := dueNow 0x302 4064 0 0 0 (fresh [])
    s.engine.cur.src.toNat + 32 ≤ s.params.scratchBytes := by decide +kernel

theorem witness_IvloadCopiesScratch :
    let s := dueNow 0x004 4080 0 0 0 (fresh [])
    s.engine.cur.src.toNat + 16 ≤ s.params.scratchBytes := by decide +kernel

theorem witness_IvstoreCopiesChain :
    let s := dueNow 0x005 0 4080 0 0 (State.loaded (fresh [0x01]) 0 key00 block0)
    s.engine.scr.wf = true ∧ s.engine.cur.dst.toNat + 16 ≤ s.params.scratchBytes ∧
    s.engine.chain.valid = true := by decide +kernel

/-- AESENC and AESDEC over ranges that overlap, and over empty ranges at the end of scratch. -/
theorem witness_AesencRunsBlockLoop :
    let s := dueNow 0x206 0x40 0x50 64 0 (State.loaded (fresh [0x01]) 2 key00 block0)
    let e := dueNow 0x206 4096 4096 0 0 (State.loaded (fresh [0x01]) 2 key00 block0)
    ∀ x ∈ [s, e], x.engine.scr.wf = true ∧
      x.engine.cur.src.toNat + x.engine.cur.len.toNat ≤ x.params.scratchBytes ∧
      x.engine.cur.dst.toNat + x.engine.cur.len.toNat ≤ x.params.scratchBytes ∧
      x.engine.cur.len.toNat % 16 = 0 ∧ x.engine.ks[2].valid = true ∧ x.engine.chain.valid = true := by
  decide +kernel

theorem witness_AesdecRunsBlockLoop :
    let s := dueNow 0x207 0x40 0x50 64 0 (State.loaded (fresh [0x01]) 2 key00 block0)
    let e := dueNow 0x207 4096 4096 0 0 (State.loaded (fresh [0x01]) 2 key00 block0)
    ∀ x ∈ [s, e], x.engine.scr.wf = true ∧
      x.engine.cur.src.toNat + x.engine.cur.len.toNat ≤ x.params.scratchBytes ∧
      x.engine.cur.dst.toNat + x.engine.cur.len.toNat ≤ x.params.scratchBytes ∧
      x.engine.cur.len.toNat % 16 = 0 ∧ x.engine.ks[2].valid = true ∧ x.engine.chain.valid = true := by
  decide +kernel

/-- In place, with the destination before the source, and with the destination right after the source. -/
theorem witness_AesencIsCbcEncryption :
    let s (dst : Word) := dueNow 0x206 0x40 dst 64 0 (State.loaded (fresh [0x01]) 2 key00 block0)
    ∀ x ∈ [s 0x40, s 0x30, s 0x80], x.engine.scr.wf = true ∧
      x.engine.cur.src.toNat + x.engine.cur.len.toNat ≤ x.params.scratchBytes ∧
      x.engine.cur.dst.toNat + x.engine.cur.len.toNat ≤ x.params.scratchBytes ∧
      x.engine.cur.len.toNat % 16 = 0 ∧ x.engine.ks[2].valid = true ∧ x.engine.chain.valid = true ∧
      (x.engine.cur.dst.toNat ≤ x.engine.cur.src.toNat ∨
        x.engine.cur.src.toNat + x.engine.cur.len.toNat ≤ x.engine.cur.dst.toNat) := by decide +kernel

theorem witness_AesdecIsCbcDecryption :
    let s (dst : Word) := dueNow 0x207 0x40 dst 64 0 (State.loaded (fresh [0x01]) 2 key00 block0)
    ∀ x ∈ [s 0x40, s 0x30, s 0x80], x.engine.scr.wf = true ∧
      x.engine.cur.src.toNat + x.engine.cur.len.toNat ≤ x.params.scratchBytes ∧
      x.engine.cur.dst.toNat + x.engine.cur.len.toNat ≤ x.params.scratchBytes ∧
      x.engine.cur.len.toNat % 16 = 0 ∧ x.engine.ks[2].valid = true ∧ x.engine.chain.valid = true ∧
      (x.engine.cur.dst.toNat ≤ x.engine.cur.src.toNat ∨
        x.engine.cur.src.toNat + x.engine.cur.len.toNat ≤ x.engine.cur.dst.toNat) := by decide +kernel

theorem witness_HmacinitStartsContext :
    (dueNow 0x308 0 0 0 0 (State.loaded (fresh []) 3 key00 block0)).engine.ks[3].valid = true := by
  decide +kernel

theorem witness_HmacupdAppendsMessage :
    let s := dueNow 0x009 4093 0 3 0 (State.macActive (fresh []) key00 [0x61])
    s.engine.cur.src.toNat + s.engine.cur.len.toNat ≤ s.params.scratchBytes ∧
    s.engine.hctx = .active key00 [0x61] ∧ [0x61#8].length + s.engine.cur.len.toNat ≤ 2 ^ 61 - 65 := by
  decide +kernel

theorem witness_HmacfinWritesTag :
    let s := dueNow 0x00A 0 4064 0 0 (State.macActive (fresh [0x01]) key00 [0x61])
    s.engine.scr.wf = true ∧ s.engine.cur.dst.toNat + 32 ≤ s.params.scratchBytes ∧
    s.engine.hctx = .active key00 [0x61] := by decide +kernel

theorem witness_CmpSetsMatch :
    let s := dueNow 0x00B 4064 0 32 4064 (fresh [0x01])
    s.engine.cur.src.toNat + s.engine.cur.len.toNat ≤ s.params.scratchBytes ∧
    s.engine.cur.aux.toNat + s.engine.cur.len.toNat ≤ s.params.scratchBytes := by decide +kernel

theorem witness_ScrubZeroesRegion :
    let s := dueNow 0x00C 0 0 4096 0 (fresh [0x01])
    s.engine.scr.wf = true ∧ s.engine.cur.dst.toNat + s.engine.cur.len.toNat ≤ s.params.scratchBytes := by
  decide +kernel

/-- One piece of one byte and one of two, and the three bytes at once. -/
theorem witness_HmacSplitInvariance :
    let s := State.macActive (fresh [0x61, 0x62, 0x63]) key00 []
    (1 : Word).toNat + (2 : Word).toNat < 2 ^ 32 ∧ (0 : Word).toNat + (1 : Word).toNat < 2 ^ 32 ∧
    ∃ t u v : State,
      exec .hmacupd { s with engine := { s.engine with cur := ⟨0x9, 0, 0, 1, 0⟩ } } = .next t ∧
      exec .hmacupd { t with engine := { t.engine with cur := ⟨0x9, 0 + 1, 0, 2, 0⟩ } } = .next u ∧
      exec .hmacupd { s with engine := { s.engine with cur := ⟨0x9, 0, 0, 1 + 2, 0⟩ } } = .next v ∧
      s.engine.status.err = false ∧ u.engine.status.err = false ∧ v.engine.status.err = false :=
  ⟨by decide, by decide, _, _, _, rfl, rfl, rfl, rfl, rfl, rfl⟩

theorem witness_EraseAllLeavesResetState :
    let s := run 0x102 0 0 0 0 (fresh [0x01])
    s.Inv ∧ s.engine.status.busy = false ∧ s.engine.status.err = false :=
  ⟨by constructor <;> decide +kernel, rfl, rfl⟩

/-- One block at 0x000 under slot 2, then one at 0x010 under slot 3 with the same key and the CHAIN that the first
command left, for AESENC and for AESDEC. -/
theorem witness_CbcContinuesAcrossCommands :
    let s (w : Word) := dueNow w 0 0 16 0 (State.loaded (fresh [0x01]) 2 key0 block0)
    let t (w : Word) (c : Chain) := dueNow w 16 16 16 0
      { fresh [0x01] with engine := ((fresh [0x01]).engine.loadKey 3 key0).setChain c }
    (AesReady 2 (s 0x206) ∧ ∃ s', exec (.aesenc 2) (s 0x206) = .next s' ∧ AesReady 3 (t 0x306 s'.engine.chain) ∧
      (t 0x306 s'.engine.chain).engine.ks[3].value = (s 0x206).engine.ks[2].value ∧
      (t 0x306 s'.engine.chain).engine.chain = s'.engine.chain) ∧
    (AesReady 2 (s 0x207) ∧ ∃ s', exec (.aesdec 2) (s 0x207) = .next s' ∧ AesReady 3 (t 0x307 s'.engine.chain) ∧
      (t 0x307 s'.engine.chain).engine.ks[3].value = (s 0x207).engine.ks[2].value ∧
      (t 0x307 s'.engine.chain).engine.chain = s'.engine.chain) := by
  refine ⟨⟨?_, _, rfl, ?_, ?_, rfl⟩, ?_, _, rfl, ?_, ?_, rfl⟩
  all_goals (constructor <;> decide +kernel)

/-- The clause on the least padding, at its least value for the empty message. -/
theorem witness_ShaPaddingIsLeast : ((([] : Bytes).length + 1 + 55 + 8) % 64 = 0) := by decide

/-! ## Witnesses: the host's side -/

/-- The three ways into the reset state. -/
theorem witness_ResetState :
    (∃ p : Params, State.resetWith ⟨0, 7⟩ = State.resetWith p) ∧
    (∃ s : State, resetInput true (fresh [0x01]) = resetInput true s) ∧
    ((dueNow 0x000 0 0 0 0 (fresh [0x01])).resetHeld = false ∧ (0x80000000 : Word).getLsbD 31 = true) :=
  ⟨⟨_, rfl⟩, ⟨_, rfl⟩, rfl, by decide⟩

/-- An idle engine whose reset input is released: IdIsConstant, ParamDescribesImplementation, StatusShowsFlags,
CtrlWriteResetsOrSetsEnables and StatusWriteOneClears ask no more, nor does the read of CMD. -/
theorem witness_released : (fresh []).resetHeld = false := rfl

theorem witness_ParamDescribesImplementation : (fresh []).params.scratchBytes = 4096 := by decide +kernel

theorem witness_CtrlWriteResetsOrSetsEnables :
    (0x80000007 : Word).getLsbD 31 = true ∧ (0x7FFFFFFF : Word).getLsbD 31 = false := by decide

/-- Idle without error, with an illegal word; busy; and idle with an error. -/
theorem witness_CmdWriteAcceptedOrDropped :
    ((fresh []).engine.status.busy = false ∧ (fresh []).engine.status.err = false ∧ legal 0x503 = false) ∧
    (dueNow 0x000 0 0 0 0 (fresh [])).engine.status.busy = true ∧
    (run 0x0FF 0 0 0 0 (fresh [])).engine.status.err = true := ⟨⟨rfl, rfl, by decide⟩, rfl, by decide +kernel⟩

theorem witness_OperandWriteDroppedWhileBusy :
    ((dueNow 0x000 0 0 0 0 (fresh [])).resetHeld = false ∧
      (dueNow 0x000 0 0 0 0 (fresh [])).engine.status.busy = true) ∧
    ((fresh []).resetHeld = false ∧ (fresh []).engine.status.busy = false) := ⟨⟨rfl, rfl⟩, rfl, rfl⟩

theorem witness_ReservedOffsetsReadZero :
    ∀ off ∈ [0x024, 0xFFC], 0x024 ≤ off ∧ off ≤ 0xFFC ∧ off % 4 = 0 := by decide

/-- A misaligned access at the last byte of the window, and an aligned access that is too narrow. -/
theorem witness_MisshapenAccessIsBusError :
    (0x1FFF < (fresh []).params.windowBytes ∧ 0x1FFF % 4 ≠ 0) ∧
    (0x000 < (fresh []).params.windowBytes ∧ Width.w8 ≠ .w32) := by decide +kernel

theorem witness_ScratchWindowIsLittleEndian :
    let s := fresh [0x01]
    s.engine.scr.wf = true ∧ s.resetHeld = false ∧ s.engine.status.busy = false ∧
    ∀ j ∈ [0, 1023], 4 * j < s.params.scratchBytes := by decide +kernel

theorem witness_ScratchWindowWhileBusy :
    let s := dueNow 0x000 0 0 0 0 (fresh [])
    s.resetHeld = false ∧ s.engine.status.busy = true ∧ ∀ j ∈ [0, 1023], 4 * j < s.params.scratchBytes := by
  decide +kernel

/-- The addresses next to the window of an engine at 0x2000, and an engine held in reset. -/
theorem witness_UnroutedAndHeldAccesses :
    let s := State.resetWith ⟨2, 1⟩
    (s.resetHeld = false ∧ (Access.read .w32 0x1FFF).addr < s.params.engineBase) ∧
    s.params.engineBase + s.params.windowBytes ≤ (Access.write .w32 0x4000 0).addr ∧
    (resetInput true s).resetHeld = true := by decide +kernel

theorem witness_ResetErasesEverything :
    let s := dueNow 0x000 0 0 0 0 (fresh [])
    (resetInput true s = resetInput true s) ∧ s.resetHeld = false ∧ (0x80000000 : Word).getLsbD 31 = true :=
  ⟨rfl, rfl, by decide⟩

/-! ## Witnesses: timing and secrecy -/

/-- A command in flight with three steps to go, while the host reads, writes CTRL without a reset and
releases the reset input. -/
theorem witness_CommandCompletesInTime :
    let s : State := { dueNow 0x000 0 0 0 0 (fresh []) with
      delay := 3
      queue := [.access (.read .w32 0x00C), .access (.write .w32 0x008 0x7FFFFFFF), .resetInput false, .idle] }
    s.engine.status.busy = true ∧ ∀ ev ∈ s.queue, isReset s.params ev = false := by decide +kernel

/-- Two machines whose keys, CHAIN values, messages and scratch differ, with the same command due. -/
theorem witness_TimingIsDataIndependent :
    let s := dueNow 0x003 0 0 16 0 (State.macActive (State.loaded (fresh [0x01]) 2 key0 block0) key0 [0x61])
    let t := dueNow 0x003 0 0 16 0 (State.macActive (State.loaded (fresh [0x02]) 2 key1 block1) key1 [0x62])
    TimingAlike s t ∧ (∃ s', step s = .next s') ∧ ∃ t', step t = .next t' :=
  ⟨⟨rfl, rfl, rfl, rfl, rfl, rfl, rfl, rfl, rfl, rfl, rfl, rfl, rfl, rfl, rfl, rfl, rfl, by decide +kernel, rfl,
    rfl, rfl⟩, ⟨_, rfl⟩, ⟨_, rfl⟩⟩

/-- Two machines whose slot and HMAC keys differ. -/
theorem witness_KeysHaveNoBusAddress :
    KeysAlike (State.macActive (State.loaded (fresh [0x01]) 2 key1 block0) key1 [0x61])
      (State.macActive (State.loaded (fresh [0x01]) 2 key0 block0) key0 [0x61]) :=
  ⟨rfl, rfl, rfl, rfl, rfl, rfl, rfl, rfl, rfl, rfl, rfl, rfl, rfl, rfl, by decide +kernel, rfl, rfl, rfl, rfl⟩

/-! ## Witnesses: the host protocol -/

theorem witness_WaitEndsWithIdleEngine :
    let s : State := { dueNow 0x000 0 0 0 0 (fresh []) with delay := 3 }
    s.resetHeld = false ∧ s.queue = [] := ⟨rfl, rfl⟩

theorem witness_IssueLatchesLine :
    (fresh []).resetHeld = false ∧ (fresh []).queue = [] ∧ (fresh []).engine.status.busy = false ∧
    (fresh []).engine.status.err = false := ⟨rfl, rfl, rfl, rfl⟩

/-- Each phase at the largest buffer its bound allows. -/
theorem witness_DecoderBufferIsBounded :
    (List.replicate 4 (0 : Byte)).length < 5 ∧ (List.replicate 1 (0 : Byte)).length < 2 ∧
    (1 ≤ 1 ∧ ([] : Bytes).length = 0) ∧ (List.replicate 95 (0 : Byte)).length < 96 ∧
    (List.replicate 64 (0 : Byte)).length ≤ 64 := by decide

theorem witness_DecoderChecksHeader :
    let wrongMagic : Bytes := [0x41, 0x45, 0x54, 0x02, 0x00]
    let wrongVersion : Bytes := [0x41, 0x45, 0x53, 0x01, 0x00]
    (5 ≤ wrongMagic.length ∧ wrongMagic.take 3 ≠ [0x41, 0x45, 0x53]) ∧
    (5 ≤ wrongVersion.length ∧ wrongVersion.take 3 = [0x41, 0x45, 0x53] ∧ wrongVersion.getD 3 0 ≠ 0x02) := by
  decide

/-- A decoder in each phase the clauses name; in CONTENT with 48 and with 50 bytes. -/
theorem witness_DecoderEndOfInput :
    (⟨.failed .badFormat, [], none⟩ : Decoder).phase = .failed .badFormat ∧
    (⟨.done, [], none⟩ : Decoder).phase = .done ∧ (Decoder.start []).phase = .header ∧
    (⟨.extSkip 1, [], some []⟩ : Decoder).phase = .extSkip 1 ∧
    ((⟨.content, List.replicate 48 0, none⟩ : Decoder).phase = .content ∧ (List.replicate 48 (0 : Byte)).length < 49) ∧
    ((⟨.content, List.replicate 50 0, none⟩ : Decoder).phase = .content ∧ 49 < (List.replicate 50 (0 : Byte)).length) := by
  decide

theorem witness_EncoderIdleCalls :
    (Encoder.start []).phase = .uninitialized ∧ (⟨.finalized, none, 5, []⟩ : Encoder).phase = .finalized := by
  decide

end Sys2Proof.Tests
end

