-- ==== Sys2Proof/Proofs/Registers.lean ====
section
/-! The register window of 10_state.md, as the host sees it: how each register word is laid out, what each
register write does to the engine, the reserved offsets, the reset values and the interrupt output. -/

namespace Sys2Proof.Machine

/-! ## The layout of the words a register read shows -/

/-- PARAM from bit 31 down to bit 0: KDF_ROUNDS, 0, NUM_KEY_SLOTS, 0, LOG2_SCRATCH (R23). -/
theorem paramWord_fields (p : Params) :
    (paramWord p).extractLsb' 16 16 = 0x2000 ∧ (paramWord p).extractLsb' 12 4 = 0 ∧
      (paramWord p).extractLsb' 8 4 = 4 ∧ (paramWord p).extractLsb' 5 3 = 0 ∧
      (paramWord p).extractLsb' 0 5 = BitVec.ofNat 5 p.logScratch := by
  have above (start len : Nat) (h : 5 ≤ start) :
      (paramWord p).extractLsb' start len =
        (0x2000#16 ++ 0#4 ++ 0x4#4 ++ 0#3).extractLsb' (start - 5) len :=
    BitVec.extractLsb'_append_eq_of_le h
  exact ⟨above 16 16 (by decide), above 12 4 (by decide), above 8 4 (by decide), above 5 3 (by decide),
    BitVec.extractLsb'_append_eq_right⟩

/-- `log2(SCRATCH_BYTES)` is at most 20, so that it fits PARAM's field (R7, R23). -/
theorem toNat_logScratch_field (p : Params) : (BitVec.ofNat 5 p.logScratch).toNat = p.logScratch := by
  have h : p.logScratch < 2 ^ 5 := by
    have := p.logExtra.isLt
    unfold Params.logScratch
    omega
  rw [BitVec.toNat_ofNat, Nat.mod_eq_of_lt h]

/-- A scratch of 4096 bytes has `LOG2_SCRATCH = 12`. -/
theorem logScratch_of_scratchBytes {p : Params} (h : p.scratchBytes = 4096) : p.logScratch = 12 :=
  Nat.pow_right_injective (le_refl 2) (show 2 ^ p.logScratch = 2 ^ 12 from h)

/-- CTRL shows its three enables in bits 0 to 2 and 0 above them (R25). -/
theorem ctrlWord_fields (c : Ctrl) :
    (ctrlWord c).getLsbD 0 = c.ieDone ∧ (ctrlWord c).getLsbD 1 = c.ieErr ∧
      (ctrlWord c).getLsbD 2 = c.ieOvr ∧ (ctrlWord c).extractLsb' 3 29 = 0 := by
  rcases c with ⟨_ | _, _ | _, _ | _⟩ <;> decide

/-- IRQ is the disjunction of the three flags, each with its enable (R40). -/
theorem irq_iff (e : Engine) :
    irq e = true ↔
      (e.status.done = true ∧ e.ctrl.ieDone = true) ∨ (e.status.err = true ∧ e.ctrl.ieErr = true) ∨
      (e.status.ovr = true ∧ e.ctrl.ieOvr = true) := by
  simp [irq, or_assoc]

/-! ## What each register write does to the engine -/

/-- A write to CTRL with bit 31 set is the reset (R25, R341). -/
theorem writeCtrl_of_bit31 {v : Word} (h : v.getLsbD 31 = true) (s : State) :
    writeCtrl v s = s.resetEngine := if_pos h

/-- A write to CTRL with bit 31 clear sets the enables (R25). -/
theorem writeCtrl_of_not_bit31 {v : Word} (h : v.getLsbD 31 = false) (s : State) :
    writeCtrl v s =
      { s with engine := { s.engine with ctrl := ⟨v.getLsbD 0, v.getLsbD 1, v.getLsbD 2⟩ } } :=
  if_neg (Bool.eq_false_iff.1 h)

/-- A conditional clear is a conjunction with the negated condition (R27). -/
theorem clearDone_if (b : Bool) (e : Engine) : (if b then e.clearDone else e) =
    { e with status := { e.status with done := e.status.done && !b } } := by
  cases b <;> simp [Engine.clearDone]

theorem clearOvr_if (b : Bool) (e : Engine) : (if b then e.clearOvr else e) =
    { e with status := { e.status with ovr := e.status.ovr && !b } } := by
  cases b <;> simp [Engine.clearOvr]

/-- The return from a command error, if asked for, clears ERR and ERRCODE together (R27, R321). -/
theorem clearError_if (b : Bool) (e : Engine) : (if b then e.clearError else e) =
    { e with status := { e.status with
      err := e.status.err && !b, errcode := if b then 0x00 else e.status.errcode } } := by
  cases b <;> simp [Engine.clearError]

/-- The three conditional clears of a STATUS write, joined: each clears the flag its bit names (R27). -/
theorem writeStatus_engine (v : Word) (s : State) :
    (writeStatus v s).engine = { s.engine with status := { s.engine.status with
      done := s.engine.status.done && !v.getLsbD 1
      err := s.engine.status.err && !v.getLsbD 2
      errcode := if v.getLsbD 2 then 0x00 else s.engine.status.errcode
      ovr := s.engine.status.ovr && !v.getLsbD 3 } } := by
  simp only [writeStatus, clearDone_if, clearError_if, clearOvr_if]

/-- The four operand registers (R30). -/
def operandRegs : List Reg := [.src, .dst, .len, .aux]

/-- The operand registers stand at 0x014 to 0x020 (10_state.md section 3). -/
theorem operandRegs_offsets : operandRegs.map Reg.offset = [0x014, 0x018, 0x01C, 0x020] := rfl

/-- An operand write while `BUSY = 0` is the write of that field, `BUSY = 1` drops it (R31). -/
theorem writeOperand_of_idle {s : State} (h : s.engine.status.busy = false) (set : Engine → Engine) :
    writeOperand set s = { s with engine := set s.engine } := if_neg (Bool.eq_false_iff.1 h)

theorem writeOperand_of_busy {s : State} (h : s.engine.status.busy = true) (set : Engine → Engine) :
    writeOperand set s = s.drop := if_pos h

/-- While `BUSY = 1` every operand register's write is dropped (R31). -/
theorem writeReg_operand_of_busy {r : Reg} (hr : r ∈ operandRegs) (v : Word) {s : State}
    (h : s.engine.status.busy = true) : writeReg r v s = s.drop := by
  fin_cases hr <;> simp only [writeReg, writeOperand_of_busy h]

/-- While `BUSY = 0` an operand register reads back what was written to it (R30). -/
theorem readReg_writeReg_operand {r : Reg} (hr : r ∈ operandRegs) (v : Word) {s : State}
    (h : s.engine.status.busy = false) (p : Params) : readReg p (writeReg r v s).engine r = v := by
  fin_cases hr <;> simp only [writeReg, writeOperand_of_idle h, readReg]

/-- No register write moves the reset input's level. -/
theorem writeReg_resetHeld (r : Reg) (v : Word) (s : State) : (writeReg r v s).resetHeld = s.resetHeld := by
  have operand (set : Engine → Engine) : (writeOperand set s).resetHeld = s.resetHeld := by
    rcases writeOperand_cases set s with ⟨_, h⟩ | ⟨_, h⟩ <;> simp [h]
  cases r with
  | id | param | status => rfl
  | ctrl => rw [writeReg, writeCtrl]; split <;> rfl
  | cmd => rcases writeCmd_cases v s with ⟨_, _, h⟩ | ⟨_, h⟩ <;> simp [writeReg, h]
  | src | dst | len | aux => exact operand _

/-- A host write to a register leaves the engine as the register's write does. -/
theorem hostWrite_reg_engine (r : Reg) (v : Word) {s : State} (h : s.resetHeld = false) :
    (hostWrite r.offset v s).engine = (writeReg r v s).engine := by
  rw [hostWrite_reg r v h, State.respond_engine]

/-- A host read of a register answers its value. -/
theorem hostRead_reg_response (r : Reg) {s : State} (h : s.resetHeld = false) :
    (hostRead r.offset s).response = some (.data (readReg s.params s.engine r)) := by
  rw [hostRead_reg r h, State.respond_response]

/-- A host read of a register leaves the engine as it is (R69). -/
theorem hostRead_reg_engine (r : Reg) {s : State} (h : s.resetHeld = false) :
    (hostRead r.offset s).engine = s.engine := by
  rw [hostRead_reg r h, State.respond_engine]

/-- While `BUSY = 0` a host write to an operand register sets its field and nothing else (R31). -/
theorem hostWrite_operand_of_idle (r : Reg) (set : Engine → Engine) {v : Word} {s : State}
    (hs : s.resetHeld = false) (hb : s.engine.status.busy = false) (hr : writeReg r v s = writeOperand set s) :
    (hostWrite r.offset v s).engine = set s.engine := by
  rw [hostWrite_reg_engine r v hs, hr, writeOperand_of_idle hb]

/-! ## Reserved offsets -/

/-- No register stands above AUX (R32). -/
theorem regAt_of_reserved {off : Nat} (h : 0x024 ≤ off) : regAt off = none := by
  unfold regAt
  split
  case h_10 => rfl
  all_goals omega

/-- A read of a reserved offset answers 0 and does nothing else (R32). -/
theorem hostRead_reserved {off : Nat} {s : State} (h : s.resetHeld = false) (hlo : 0x024 ≤ off)
    (hhi : off ≤ 0xFFC) (h4 : off % 4 = 0) : hostRead off s = s.respond (.data 0) := by
  have hw := Params.registers_inside s.params
  have hr : off < scratchWindow := by unfold scratchWindow; omega
  rw [hostRead_window h (by omega) h4, readWindow, if_pos hr, regAt_of_reserved hlo]

/-- A write to a reserved offset is acknowledged and ignored (R32). -/
theorem hostWrite_reserved {off : Nat} {s : State} (v : Word) (h : s.resetHeld = false) (hlo : 0x024 ≤ off)
    (hhi : off ≤ 0xFFC) (h4 : off % 4 = 0) : hostWrite off v s = s.respond .ack := by
  have hw := Params.registers_inside s.params
  have hr : off < scratchWindow := by unfold scratchWindow; omega
  rw [hostWrite_window h (by omega) h4, writeWindow, if_pos hr, regAt_of_reserved hlo]

/-! ## Reset -/

/-- A soft reset leaves the engine in its reset state (R25, R341). -/
theorem hostWrite_ctrl_reset {v : Word} {s : State} (h : s.resetHeld = false) (hv : v.getLsbD 31 = true) :
    (hostWrite 0x008 v s).engine = Engine.reset :=
  calc (hostWrite 0x008 v s).engine
    _ = (writeCtrl v s).engine := hostWrite_reg_engine .ctrl v h
    _ = Engine.reset := by rw [writeCtrl_of_bit31 hv, State.resetEngine_engine]

/-- The assertion of the reset input leaves the engine in its reset state (R340, R341). -/
theorem resetInput_asserted_engine (s : State) : (resetInput true s).engine = Engine.reset := rfl

end Sys2Proof.Machine

open Sys2Proof Sys2Proof.Machine

/-- Settles O36: all three ways lead to `Engine.reset`, whose fields are R41's values. -/
theorem resetState : Obligations.ResetState := by
  intro t ht
  have he : t.engine = Engine.reset := by
    rcases ht with ⟨p, rfl⟩ | ⟨s, rfl⟩ | ⟨s, v, hs, hv, rfl⟩
    · rfl
    · exact resetInput_asserted_engine s
    · exact hostWrite_ctrl_reset hs hv
  have hslot (k : Fin 4) : t.engine.ks[k] = KeySlot.cleared := by rw [he, getElem_reset_ks]
  have hscr (a : Nat) : t.engine.scr.read a = 0x00 := by rw [he]; exact Memory.read_nil a
  refine ⟨?ctrl, ?status, ?cmd, ?src, ?dst, ?len, ?aux, fun k => ?slot, ?chain, ?chainValid, ?hctx, hscr,
    ?busy, ?irq⟩
  case slot => rw [hslot k]; exact ⟨rfl, rfl⟩
  all_goals rw [he]; rfl

/-- Settles O37. -/
theorem idIsConstant : Obligations.IdIsConstant := fun _ v hs =>
  ⟨hostRead_reg_response .id hs, by decide, hostRead_reg_engine .id hs, hostWrite_reg_engine .id v hs⟩

/-- Settles O38, from the layout of PARAM and the bound on its first field. -/
theorem paramDescribesImplementation : Obligations.ParamDescribesImplementation := by
  intro s v hs
  obtain ⟨hkdf, hres₁, hslots, hres₂, hlog⟩ := paramWord_fields s.params
  have hlogNat : ((paramWord s.params).extractLsb' 0 5).toNat = s.params.logScratch := by
    rw [hlog, toNat_logScratch_field]
  have hdefault (h : s.params.scratchBytes = 4096) : paramWord s.params = 0x2000040C := by
    rw [paramWord, logScratch_of_scratchBytes h]; rfl
  exact ⟨⟨paramWord s.params, hostRead_reg_response .param hs, hlogNat, congrArg (2 ^ ·) hlogNat, hres₂, hslots,
    hres₁, hkdf, hdefault⟩, hostWrite_reg_engine .param v hs⟩

/-- Settles O40, by the two branches of a CTRL write. -/
theorem ctrlWriteResetsOrSetsEnables : Obligations.CtrlWriteResetsOrSetsEnables := by
  intro s v hs
  refine ⟨fun hv => ?reset, fun hv => ?enables, ctrlWord s.engine.ctrl, hostRead_reg_response .ctrl hs,
    ctrlWord_fields s.engine.ctrl⟩
  case reset => rw [hostWrite_ctrl_reset hs hv]
  case enables =>
    calc (hostWrite 0x008 v s).engine
      _ = (writeCtrl v s).engine := hostWrite_reg_engine .ctrl v hs
      _ = _ := by rw [writeCtrl_of_not_bit31 hv]

/-- Settles O41. -/
theorem statusWriteOneClears : Obligations.StatusWriteOneClears := fun s v hs =>
  ⟨(hostWrite_reg_engine .status v hs).trans (writeStatus_engine v s), hostRead_reg_engine .status hs⟩

/-- Settles O43: each offset of the list is that of an operand register, whose write goes by BUSY alone. -/
theorem operandWriteDroppedWhileBusy : Obligations.OperandWriteDroppedWhileBusy := by
  intro s v hs
  simp only [← operandRegs_offsets, List.forall_mem_map]
  refine ⟨fun hb r hr => ?busy, fun hb => ⟨?src, ?dst, ?len, ?aux, fun r hr => ?readBack⟩⟩
  case busy => rw [hostWrite_reg_engine r v hs, writeReg_operand_of_busy hr v hb, State.drop_engine]
  case src => exact hostWrite_operand_of_idle .src (fun e => { e with src := v }) hs hb rfl
  case dst => exact hostWrite_operand_of_idle .dst (fun e => { e with dst := v }) hs hb rfl
  case len => exact hostWrite_operand_of_idle .len (fun e => { e with len := v }) hs hb rfl
  case aux => exact hostWrite_operand_of_idle .aux (fun e => { e with aux := v }) hs hb rfl
  case readBack =>
    have hheld : (hostWrite r.offset v s).resetHeld = false := by
      rw [hostWrite_reg r v hs, State.respond_resetHeld, writeReg_resetHeld, hs]
    rw [hostRead_reg_response r hheld, hostWrite_reg_engine r v hs, readReg_writeReg_operand hr v hb]

/-- Settles O44. -/
theorem reservedOffsetsReadZero : Obligations.ReservedOffsetsReadZero := by
  intro s v off hs hlo hhi h4
  rw [hostRead_reserved hs hlo hhi h4, hostWrite_reserved v hs hlo hhi h4]
  exact ⟨rfl, rfl, rfl⟩

/-- Settles O45. -/
theorem irqIsLevelOfEnabledFlags : Obligations.IrqIsLevelOfEnabledFlags := irq_iff

end

