-- ==== Sys2Proof/Proofs/Memory.lean ====
section
/-! The host's bus accesses of 20_memory.md: the bus error of a misshapen access, the byte order of a bus word,
and the scratch window while `BUSY = 0`. -/

namespace Sys2Proof.Machine

/-! ## Misshapen accesses -/

/-- An access is misshapen by its width or by its alignment (R62). -/
theorem accessOk_eq_false_iff (w : Width) (off : Nat) :
    accessOk w off = false ↔ w ≠ .w32 ∨ off % 4 ≠ 0 := by
  simp only [accessOk, Bool.and_eq_false_iff, beq_eq_false_iff_ne]

/-- The bus addresses of the window are `ENGINE_BASE` plus an offset below its size (R61). -/
theorem State.inWindow_engineBase_add {s : State} {off : Nat} (h : off < s.params.windowBytes) :
    s.inWindow (s.params.engineBase + off) = true := by
  simp only [State.inWindow, Bool.and_eq_true, decide_eq_true_eq]
  omega

/-- A misshapen access inside the window only sets the response, to a bus error (R62, R319). -/
theorem busAccess_of_misshapen {a : Access} {s : State} {off : Nat} (h : s.resetHeld = false)
    (ha : a.addr = s.params.engineBase + off) (ho : off < s.params.windowBytes)
    (hbad : a.width ≠ .w32 ∨ off % 4 ≠ 0) : busAccess a s = s.respond .busError := by
  have hin := State.inWindow_engineBase_add ho
  have hok := (accessOk_eq_false_iff a.width off).2 hbad
  simp only [busAccess, h, ha, hin, Nat.add_sub_cancel_left, hok]
  rfl

/-! ## The byte order of a bus word -/

/-- The byte of a word at offset `i` is its bits `8i+7 : 8i` (R63). -/
theorem getD_bytesOfWord (w : Word) {i : Nat} (h : i < 4) :
    (bytesOfWord w).getD i 0 = w.extractLsb' (8 * i) 8 := by
  interval_cases i <;> rfl

/-- A word is its bytes, each shifted to its place (R63): bit `i` stands in byte `i / 8`. -/
theorem wordOfBytes_eq_or (b0 b1 b2 b3 : Byte) :
    wordOfBytes b0 b1 b2 b3 =
      b0.setWidth 32 ||| b1.setWidth 32 <<< 8 ||| b2.setWidth 32 <<< 16 ||| b3.setWidth 32 <<< 24 := by
  refine BitVec.eq_of_getLsbD_eq fun i hi => ?_
  simp only [wordOfBytes, BitVec.getLsbD_append, BitVec.getLsbD_or, BitVec.getLsbD_setWidth,
    BitVec.getLsbD_shiftLeft, hi, decide_true, Bool.true_and]
  rcases (by omega : i < 8 ∨ (8 ≤ i ∧ i < 16) ∨ (16 ≤ i ∧ i < 24) ∨ 24 ≤ i) with h | h | h | h
  all_goals grind

/-! ## The scratch window while `BUSY = 0` -/

/-- A write past the register window is a write of scratch (R61). -/
theorem writeWindow_scratch (a : Nat) (v : Word) (s : State) :
    writeWindow (0x1000 + a) v s = writeScratch a v s := by
  simp [writeWindow, scratchWindow]

/-- While `BUSY = 0` a scratch write is the write of the word's bytes; `ERR` is not looked at (R64). -/
theorem writeScratch_of_idle {s : State} (h : s.engine.status.busy = false) (a : Nat) (v : Word) :
    writeScratch a v s = { s with engine := s.engine.memWrite a (bytesOfWord v) } :=
  if_neg (Bool.eq_false_iff.1 h)

/-- While `BUSY = 0` a read past the register window answers the word that stands in scratch (R64). -/
theorem readWindow_scratch_of_idle {s : State} (h : s.engine.status.busy = false) (a : Nat) :
    readWindow (0x1000 + a) s = s.respond (.data (scratchWord s.engine.scr a)) := by
  simp [readWindow, scratchWindow, h]

/-- A word of scratch stands in the bus window at a multiple of 4 (R61, R62). -/
theorem scratchWindow_word {p : Params} {j : Nat} (h : 4 * j < p.scratchBytes) :
    0x1000 + 4 * j < p.windowBytes ∧ (0x1000 + 4 * j) % 4 = 0 := by
  unfold Params.windowBytes
  omega

/-- While `BUSY = 0` a host write of a scratch word puts its bytes into scratch and changes nothing else of the
engine (R63, R64). -/
theorem hostWrite_scratch_engine {s : State} {j : Nat} (v : Word) (h : s.resetHeld = false)
    (hb : s.engine.status.busy = false) (hj : 4 * j < s.params.scratchBytes) :
    (hostWrite (0x1000 + 4 * j) v s).engine = s.engine.memWrite (4 * j) (bytesOfWord v) := by
  obtain ⟨hin, h4⟩ := scratchWindow_word hj
  rw [hostWrite_window h hin h4, State.respond_engine, writeWindow_scratch, writeScratch_of_idle hb]

/-- While `BUSY = 0` a host read of a scratch word answers it and does nothing else (R64, R69). -/
theorem hostRead_scratch {s : State} {j : Nat} (h : s.resetHeld = false)
    (hb : s.engine.status.busy = false) (hj : 4 * j < s.params.scratchBytes) :
    hostRead (0x1000 + 4 * j) s = s.respond (.data (scratchWord s.engine.scr (4 * j))) := by
  obtain ⟨hin, h4⟩ := scratchWindow_word hj
  rw [hostRead_window h hin h4, readWindow_scratch_of_idle hb]

end Sys2Proof.Machine

open Sys2Proof Sys2Proof.Machine

/-- Settles O46: whatever its kind, a misshapen access only sets the response. -/
theorem misshapenAccessIsBusError : Obligations.MisshapenAccessIsBusError := by
  intro s w off v hs ho hbad
  have hread : busAccess (.read w (s.params.engineBase + off)) s = s.respond .busError :=
    busAccess_of_misshapen hs rfl ho hbad
  have hwrite : busAccess (.write w (s.params.engineBase + off) v) s = s.respond .busError :=
    busAccess_of_misshapen hs rfl ho hbad
  rw [hread, hwrite]
  exact ⟨rfl, rfl, rfl, rfl⟩

/-- Settles O47: a write by what a read gives after `MemWrite` inside and outside the word, a read by the byte
order of a bus word. -/
theorem scratchWindowIsLittleEndian : Obligations.ScratchWindowIsLittleEndian := by
  intro s v j hwf hs hb hj
  have hwrite := hostWrite_scratch_engine v hs hb hj
  have hread := hostRead_scratch hs hb hj
  have hscr (a : Nat) := Memory.read_writeBytes hwf (4 * j) (bytesOfWord v) a
  refine ⟨⟨?engine, fun i hi => ?inside, fun a ha => ?outside⟩, ?unchanged, _, ?answer, wordOfBytes_eq_or _ _ _ _⟩
  case engine => rw [hwrite]; rfl
  case inside =>
    rw [hwrite, Engine.memWrite_scr, hscr, if_pos ⟨by omega, Nat.add_lt_add_left hi _⟩, Nat.add_sub_cancel_left,
      getD_bytesOfWord v hi]
  case outside => rw [hwrite, Engine.memWrite_scr, hscr]; exact if_neg ha
  case unchanged => rw [hread, State.respond_engine]
  case answer => rw [hread, State.respond_response]; rfl

end

