-- ==== Sys2Proof/Proofs/Kdf.lean ====
section
/-! The key-derivation function of 40_kdf.md: the length of its working buffer, and its rounds as an iterate. -/

namespace Sys2Proof.Machine

/-- The working buffer is salt, 16 zero bytes and the password (R120). -/
@[simp] theorem length_kdfBuffer (salt : Block) (pw : Bytes) : (kdfBuffer salt pw).length = 32 + pw.length := by
  simp only [kdfBuffer, List.length_append, Vector.length_toList, length_zeros]

/-- The rounds are the iterate of one round (R120). -/
theorem kdfRounds_eq_iterate (n : Nat) (w : Bytes) : kdfRounds n w = kdfRound^[n] w := by
  induction n generalizing w with
  | zero => rfl
  | succ n ih => rw [kdfRounds, ih, Function.iterate_succ_apply]

/-- Any number of rounds keeps the buffer's length (R120). -/
theorem length_kdfRounds (n : Nat) {w : Bytes} (h : 32 ≤ w.length) : (kdfRounds n w).length = w.length := by
  induction n generalizing w with
  | zero => rfl
  | succ n ih =>
    have hround := length_kdfRound h
    rw [kdfRounds, ih (hround ▸ h), hround]

/-- The derived key is the buffer's first 32 bytes after the last round, with nothing filled in (R120). -/
theorem toList_kdf (salt : Block) (pw : Bytes) :
    (kdf salt pw).toList = (kdfRounds Config.kdfRounds (kdfBuffer salt pw)).take 32 := by
  have hbuffer : 32 ≤ (kdfBuffer salt pw).length := by simp
  have htake : ((kdfRounds Config.kdfRounds (kdfBuffer salt pw)).take 32).length = 32 := by
    rw [List.length_take, length_kdfRounds _ hbuffer, Nat.min_eq_left hbuffer]
  exact toList_toVec htake

end Sys2Proof.Machine

open Sys2Proof Sys2Proof.Machine

/-- Settles O32: the rounds keep the buffer at least 32 bytes long, so the key is what they leave there;
the round and the buffer are the statement's by definition. -/
theorem kdfIsIteratedSha256 : Obligations.KdfIsIteratedSha256 := by
  intro salt pw
  refine ⟨?length, ?rounds⟩
  case length => rw [length_kdfBuffer, length_passwordBytes]
  case rounds =>
    rw [toList_kdf, kdfRounds_eq_iterate]
    rfl

end

