-- ==== Sys2Proof/Proofs/Container.lean ====
section
/-! The container of 44_container_format.md: the length of each of its parts, and where a part stands in it. -/

namespace Sys2Proof.Machine

/-! ## Cipher block chaining keeps the number of blocks -/

@[simp] theorem length_blocksOf (s : Bytes) : (blocksOf s).length = s.length / 16 := by
  simp only [blocksOf, pieces, List.length_map, List.length_range]

@[simp] theorem length_bytesOf (bs : List Block) : (bytesOf bs).length = 16 * bs.length := by
  induction bs with
  | nil => rfl
  | cons b bs ih =>
    have hcons : bytesOf (b :: bs) = b.toList ++ bytesOf bs := rfl
    rw [hcons, List.length_append, Vector.length_toList, ih, List.length_cons, Nat.mul_succ, Nat.add_comm]

/-- `cbc_enc` gives one ciphertext block for each block of plaintext (R16). -/
@[simp] theorem length_cbcEnc (key : Key) (iv : Block) (p : List Block) :
    (cbcEnc key iv p).length = p.length := by
  induction p generalizing iv with
  | nil => rfl
  | cons b p ih => simp only [cbcEnc, List.length_cons, ih]

/-- `cbc_enc` on byte strings takes whole blocks only (R16). -/
@[simp] theorem length_cbcEncBytes (key : Key) (iv : Block) (p : Bytes) :
    (cbcEncBytes key iv p).length = 16 * (p.length / 16) := by
  simp only [cbcEncBytes, length_bytesOf, length_cbcEnc, length_blocksOf]

/-! ## The lengths of the parts -/

@[simp] theorem length_fileHeader : fileHeader.length = 5 := rfl

@[simp] theorem length_extensionRecord (body : Bytes) : (extensionRecord body).length = 2 + body.length := by
  simp only [extensionRecord, be16, List.length_append, length_beBytes]

/-- Two records and the two bytes that end the section (R223). -/
@[simp] theorem length_extensionSection (creator : Bytes) :
    (extensionSection creator).length = 145 + creator.length := by
  have hname : createdBy.length = 10 := rfl
  simp only [extensionSection, List.length_append, length_extensionRecord, length_zeros, hname, List.length_cons,
    List.length_nil]
  omega

/-- The session IV and the session key are three blocks (R224). -/
@[simp] theorem length_encryptedPayload (credKey : Key) (d : Draws) :
    (encryptedPayload credKey d).length = 48 := by
  simp only [encryptedPayload, length_cbcEncBytes, List.length_append, Vector.length_toList]

@[simp] theorem length_credentialsBlock (pw : List (BitVec 16)) (d : Draws) :
    (credentialsBlock pw d).length = 96 := by
  simp only [credentialsBlock, List.length_append, Vector.length_toList, length_encryptedPayload,
    length_hmacSha256]

/-- The padding always adds a byte, so it ends the block after the last full one (R226). -/
@[simp] theorem length_paddedPlaintext (p : Bytes) :
    (paddedPlaintext p).length = 16 * (p.length / 16 + 1) := by
  simp only [paddedPlaintext, padLen, List.length_append, length_rep]
  omega

/-- The padded plaintext is whole blocks already, so its encryption is as long (R225). -/
@[simp] theorem length_contentStream (d : Draws) (p : Bytes) :
    (contentStream d p).length = 16 * (p.length / 16 + 1) := by
  rw [contentStream, length_cbcEncBytes, length_paddedPlaintext, Nat.mul_div_cancel_left _ (by decide)]

@[simp] theorem length_trailer (d : Draws) (p : Bytes) : (trailer d p).length = 33 := by
  simp only [trailer, List.length_append, length_hmacSha256, List.length_cons, List.length_nil]

theorem length_container (creator : Bytes) (pw : List (BitVec 16)) (d : Draws) (p : Bytes) :
    (container creator pw d p).length = 279 + creator.length + 16 * (p.length / 16 + 1) := by
  simp only [container, List.length_append, length_fileHeader, length_extensionSection, length_credentialsBlock,
    length_contentStream, length_trailer]
  omega

/-! ## Where a part stands -/

/-- A part stands at the offset that is the length of what comes before it. -/
theorem slice_eq_part {s pre part post : Bytes} {a b : Nat} (hs : s = pre ++ part ++ post)
    (ha : pre.length = a) (hb : a + part.length = b) : slice s a b = part := by
  subst hs ha hb
  rw [slice, List.append_assoc, List.drop_left, Nat.add_sub_cancel_left, List.take_left]

end Sys2Proof.Machine

open Sys2Proof Sys2Proof.Machine

/-- Settles O56: each part starts at the length of the parts before it and ends its own length later. -/
theorem containerLength : Obligations.ContainerLength := by
  intro creator pw d p
  have hlen := length_container creator pw d p
  have hcred : (fileHeader ++ extensionSection creator).length = 150 + creator.length := by
    rw [List.length_append, length_fileHeader, length_extensionSection]
    omega
  have hcontent : (fileHeader ++ extensionSection creator ++ credentialsBlock pw d).length =
      246 + creator.length := by
    rw [List.length_append, hcred, length_credentialsBlock]
    omega
  have htrailer : (fileHeader ++ extensionSection creator ++ credentialsBlock pw d ++ contentStream d p).length =
      (container creator pw d p).length - 33 := by
    rw [List.length_append, hcontent, length_contentStream, hlen]
    omega
  refine ⟨hlen, length_fileHeader, length_extensionSection creator, hcred, length_credentialsBlock pw d,
    length_contentStream d p, length_trailer d p, ?atHeader, ?atExtensions, ?atCredentials, ?atContent, ?atTrailer⟩
  case atHeader =>
    refine slice_eq_part (pre := [])
      (post := extensionSection creator ++ credentialsBlock pw d ++ contentStream d p ++ trailer d p) ?_ rfl rfl
    simp only [container, List.append_assoc, List.nil_append]
  case atExtensions =>
    refine slice_eq_part (post := credentialsBlock pw d ++ contentStream d p ++ trailer d p) ?_ length_fileHeader ?_
    · simp only [container, List.append_assoc]
    · rw [length_extensionSection]; omega
  case atCredentials =>
    refine slice_eq_part (post := contentStream d p ++ trailer d p) ?_ hcred ?_
    · simp only [container, List.append_assoc]
    · rw [length_credentialsBlock]; omega
  case atContent =>
    refine slice_eq_part rfl hcontent ?_
    rw [length_contentStream, hlen]
    omega
  case atTrailer =>
    refine slice_eq_part (List.append_nil _).symm htrailer ?_
    rw [length_trailer, hlen]
    omega

end

