-- ==== Sys2Proof/Proofs/Encoder.lean ====
section
/-! The encoder of 45_encoder.md: the calls that leave it and the engine as they stand. -/

namespace Sys2Proof.Machine

variable {e : Encoder} (creator : Bytes) (draws : Option Draws) (s : State)

/-- An empty chunk does not start the stream, so nothing is drawn and no program runs (R251). -/
theorem encFeed_nil_of_uninitialized (h : e.phase = .uninitialized) :
    encFeed creator draws [] e s = (.emitted [], e, s) := by
  rw [encFeed, h]
  rfl

/-- After `finish` a chunk of any length is a caller error (R257). -/
theorem encFeed_of_finalized (chunk : Bytes) (h : e.phase = .finalized) :
    encFeed creator draws chunk e s = (.refused, e, s) := by
  rw [encFeed, h]

/-- `finish` is idempotent (R256). -/
theorem encFinish_of_finalized (h : e.phase = .finalized) :
    encFinish creator draws e s = (.emitted [], e, s) := by
  rw [encFinish, h]

end Sys2Proof.Machine

open Sys2Proof Sys2Proof.Machine

/-- Settles O60: one case for each call, by the phase it finds. -/
theorem encoderIdleCalls : Obligations.EncoderIdleCalls := by
  intro creator chunk draws e s
  refine ⟨fun hstart => ?emptyFeed, fun hfinal => ⟨?secondFinish, ?feedAfterFinish⟩⟩
  case emptyFeed => exact encFeed_nil_of_uninitialized creator draws s hstart
  case secondFinish => exact encFinish_of_finalized creator draws s hfinal
  case feedAfterFinish => exact encFeed_of_finalized creator draws s chunk hfinal

end

