-- ==== Sys2Proof/Proofs/Decoder.lean ====
section
/-! The decoder of 46_decoder.md: the bound each phase puts on its buffer, which `feed` and `finish` keep, and
what the calls at the end of input answer. -/

namespace Sys2Proof.Machine

/-! ## The bound and what a turn of the loop does -/

/-- What the decoder may hold between calls, by its phase (R286). -/
def Decoder.Bounded (d : Decoder) : Prop :=
  match d.phase with
  | .header => d.buf.length < 5
  | .extLen => d.buf.length < 2
  | .extSkip k => 1 ≤ k ∧ d.buf.length = 0
  | .credentials => d.buf.length < 96
  | .content => d.buf.length ≤ 64
  | .done => d.buf.length = 0
  | .failed _ => d.buf.length = 0

/-- The phases in which `feed` takes bytes; an extension is skipped only while some of it is left (R272). -/
def DecPhase.Receiving : DecPhase → Prop
  | .header | .extLen | .credentials | .content => True
  | .extSkip k => 1 ≤ k
  | .done | .failed _ => False

/-- The loosest of the bounds is that of CREDENTIALS (R286). -/
theorem Decoder.Bounded.length_le {d : Decoder} (h : d.Bounded) : d.buf.length ≤ 95 := by
  obtain ⟨phase, buf, pw⟩ := d
  cases phase with
  | header | extLen | extSkip | credentials | content | done | failed =>
    simp only [Decoder.Bounded] at h ⊢
    omega

/-- A failure erases the buffer (R280). -/
theorem decFail_bounded (e : DecError) (s : State) : (decFail e s).2.1.Bounded := rfl

/-- What the hold-back leaves in the buffer is less than a block over the 49 bytes it must leave (R276). -/
theorem length_sub_holdBack_le (n : Nat) : n - holdBack n ≤ 64 := by
  unfold holdBack
  split <;> omega

/-- One turn of the loop either ends the call within the bound, or goes on in a receiving phase with a shorter
buffer (R272). -/
theorem feedLoop_succ_cases (n : Nat) {d : Decoder} (s : State) (h : d.phase.Receiving) :
    (feedLoop (n + 1) d s).2.1.Bounded ∨
    ∃ d' t, feedLoop (n + 1) d s = feedLoop n d' t ∧ d'.buf.length < d.buf.length ∧ d'.phase.Receiving := by
  obtain ⟨phase, buf, pw⟩ := d
  cases phase with
  | header =>
    simp only [feedLoop]
    split
    next hshort => exact .inl hshort
    next hlong =>
      split
      next e _ => exact .inl (decFail_bounded e s)
      next => exact .inr ⟨_, _, rfl, by simp only [List.length_drop]; omega, trivial⟩
  | extLen =>
    simp only [feedLoop]
    split
    next hshort => exact .inl hshort
    next hlong =>
      refine .inr ⟨_, _, rfl, by simp only [List.length_drop]; omega, ?_⟩
      split
      next => trivial
      next hl => exact Nat.one_le_iff_ne_zero.2 hl
  | extSkip k =>
    have hk : 1 ≤ k := h
    simp only [feedLoop]
    split
    next hempty => exact .inl ⟨hk, List.length_eq_zero_iff.2 (List.isEmpty_iff.1 hempty)⟩
    next hbytes =>
      have hpos : 0 < buf.length := List.length_pos_iff.2 fun hnil => hbytes (List.isEmpty_iff.2 hnil)
      refine .inr ⟨_, _, rfl, by simp only [List.length_drop]; omega, ?_⟩
      split
      next => trivial
      next hj => show 1 ≤ k - min k buf.length; omega
  | credentials =>
    simp only [feedLoop]
    split
    next hshort => exact .inl hshort
    next hlong =>
      split
      next t _ => exact .inr ⟨_, t, rfl, by simp only [List.length_drop]; omega, trivial⟩
      next e t _ => exact .inl (decFail_bounded e.decError t)
  | content =>
    have hkept : buf.length - holdBack buf.length ≤ 64 := length_sub_holdBack_le buf.length
    simp only [feedLoop]
    refine .inl ?_
    split
    next =>
      split
      next => simpa only [Decoder.Bounded, List.length_drop] using hkept
      next e t _ => exact decFail_bounded e.decError t
    next hnone => show buf.length ≤ 64; omega
  | done | failed => exact h.elim

/-- With more turns than bytes the loop ends within the bound, since each turn that goes on takes a byte
(R272, R286). -/
theorem feedLoop_bounded (n : Nat) {d : Decoder} (s : State) (hn : d.buf.length < n) (h : d.phase.Receiving) :
    (feedLoop n d s).2.1.Bounded := by
  induction n generalizing d s with
  | zero => omega
  | succ n ih =>
    rcases feedLoop_succ_cases n s h with hend | ⟨d', t, hnext, hlt, h'⟩
    · exact hend
    · rw [hnext]
      exact ih t (by omega) h'

/-! ## The calls, by the phase they find -/

section
variable {d : Decoder} (chunk : Bytes) (s : State)

/-- A bounded decoder has stopped, or receives (R270). -/
theorem Decoder.Bounded.phase_cases (h : d.Bounded) :
    (∃ e, d.phase = .failed e) ∨ d.phase = .done ∨ d.phase.Receiving := by
  obtain ⟨phase, buf, pw⟩ := d
  cases phase with
  | header | extLen | credentials | content => exact .inr (.inr trivial)
  | extSkip k => exact .inr (.inr h.1)
  | done => exact .inr (.inl rfl)
  | failed e => exact .inl ⟨e, rfl⟩

/-- In a receiving phase `feed` is the loop, with more turns than there are bytes (R272). -/
theorem decFeed_of_receiving (h : d.phase.Receiving) :
    decFeed chunk d s = feedLoop ((d.buf ++ chunk).length + 1) { d with buf := d.buf ++ chunk } s := by
  obtain ⟨phase, buf, pw⟩ := d
  cases phase with
  | header | extLen | extSkip | credentials | content => rfl
  | done | failed => exact h.elim

/-- A failure is returned by every later `feed` (R280). -/
theorem decFeed_of_failed {e : DecError} (h : d.phase = .failed e) : decFeed chunk d s = (.err e, d, s) := by
  rw [decFeed, h]

/-- After the end of the stream a chunk is a caller error (R288). -/
theorem decFeed_of_done (h : d.phase = .done) : decFeed chunk d s = (.refused, d, s) := by
  rw [decFeed, h]

/-- A failure is returned by every later `finish` (R280). -/
theorem decFinish_of_failed {e : DecError} (h : d.phase = .failed e) : decFinish d s = (.err e, d, s) := by
  rw [decFinish, h]

/-- `finish` is idempotent (R288). -/
theorem decFinish_of_done (h : d.phase = .done) : decFinish d s = (.ok [], d, s) := by
  rw [decFinish, h]

/-- Input that ends before CONTENT is a truncated file (R277). -/
theorem decFinish_before_content
    (h : d.phase = .header ∨ d.phase = .extLen ∨ (∃ k, d.phase = .extSkip k) ∨ d.phase = .credentials) :
    decFinish d s = decFail .truncatedFile s := by
  rcases h with h | h | ⟨k, h⟩ | h
  all_goals rw [decFinish, h]

/-- A tail too short for the final block, its length byte and the tag is a truncated file (R277). -/
theorem decFinish_content_short (h : d.phase = .content) (hlen : d.buf.length < 49) :
    decFinish d s = decFail .truncatedFile s := by
  rw [decFinish, h]
  exact if_pos hlen

/-- A tail longer than that is an integrity error (R277). -/
theorem decFinish_content_long (h : d.phase = .content) (hlen : 49 < d.buf.length) :
    decFinish d s = decFail .integrityError s := by
  rw [decFinish, h]
  exact (if_neg (by omega)).trans (if_pos hlen)

/-- A tail of 49 bytes is the final block, its length byte and the tag (R277). -/
theorem decFinish_content_exact (h : d.phase = .content) (hlen : d.buf.length = 49) :
    decFinish d s = decFinal (slice d.buf 0 16) (d.buf.getD 16 0) (slice d.buf 17 49) s := by
  rw [decFinish, h]
  exact (if_neg (by omega)).trans (if_neg (by omega))

/-- The final checks end in a failure or in DONE, and both erase the buffer (R278 to R280). -/
theorem decFinal_bounded (f : Bytes) (v : Byte) (tag : Bytes) : (decFinal f v tag s).2.1.Bounded := by
  unfold decFinal
  split
  next e t _ => exact decFail_bounded e.decError t
  next t _ =>
    split
    next => exact decFail_bounded .invalidPadding t
    next =>
      split
      next e u _ => exact decFail_bounded e.decError u
      next => rfl

/-- `feed` keeps the bound (R286). -/
theorem decFeed_bounded (h : d.Bounded) : (decFeed chunk d s).2.1.Bounded := by
  rcases h.phase_cases with ⟨e, hfailed⟩ | hdone | hrec
  · rwa [decFeed_of_failed chunk s hfailed]
  · rwa [decFeed_of_done chunk s hdone]
  · rw [decFeed_of_receiving chunk s hrec]
    exact feedLoop_bounded _ s (Nat.lt_succ_self _) hrec

/-- `finish` keeps the bound (R286). -/
theorem decFinish_bounded (h : d.Bounded) : (decFinish d s).2.1.Bounded := by
  cases hphase : d.phase with
  | header | extLen | extSkip | credentials =>
    rw [decFinish_before_content s (by simp [hphase])]
    exact decFail_bounded .truncatedFile s
  | content =>
    rcases Nat.lt_trichotomy d.buf.length 49 with hlen | hlen | hlen
    · rw [decFinish_content_short s hphase hlen]
      exact decFail_bounded .truncatedFile s
    · rw [decFinish_content_exact s hphase hlen]
      exact decFinal_bounded s _ _ _
    · rw [decFinish_content_long s hphase hlen]
      exact decFail_bounded .integrityError s
  | done => rwa [decFinish_of_done s hphase]
  | failed e => rwa [decFinish_of_failed s hphase]

end

end Sys2Proof.Machine

open Sys2Proof Sys2Proof.Machine

/-- Settles O57: the bound is kept because every turn of the loop that goes on takes a byte, and a failure or
the end of the stream erases the buffer. -/
theorem decoderBufferIsBounded : Obligations.DecoderBufferIsBounded :=
  ⟨fun _ => show 0 < 5 by decide, fun chunk _ s h => decFeed_bounded chunk s h,
    fun _ s h => decFinish_bounded s h, fun _ h => Decoder.Bounded.length_le h⟩

/-- Settles O59: one case for each call, by the phase it finds. -/
theorem decoderEndOfInput : Obligations.DecoderEndOfInput := by
  intro d s chunk
  refine ⟨⟨fun e hfailed => ?failed, fun hdone => ?done⟩, fun hearly => ?early, fun hcontent hlen => ?short,
    fun hcontent hlen => ?long⟩
  case failed => exact ⟨decFinish_of_failed s hfailed, decFeed_of_failed chunk s hfailed⟩
  case done => exact ⟨decFinish_of_done s hdone, decFeed_of_done chunk s hdone⟩
  case early =>
    rw [decFinish_before_content s hearly]
    exact ⟨rfl, rfl⟩
  case short =>
    rw [decFinish_content_short s hcontent hlen]
    rfl
  case long =>
    rw [decFinish_content_long s hcontent hlen]
    rfl

end

section
/-! The command word of 30_encoding.md: what the decoder accepts, that encoder and decoder are inverse, and the
match and mask table. -/

namespace Sys2Proof

/-! ## The decoder's forms -/

/-- A word of a form without slot is accepted when KS and ALL are 0 (R94). -/
theorem decodePlain_eq_ok_iff (w : Word) (i j : Instr) :
    decodePlain w i = .ok j ↔ fieldAll w = false ∧ fieldKs w = 0 ∧ i = j := by
  unfold decodePlain
  split <;> [simp_all; split <;> simp_all]

/-- A word of a form with a slot is accepted when ALL is 0 (R94). -/
theorem decodeSlotted_eq_ok_iff (w : Word) (i : Fin 4 → Instr) (j : Instr) :
    decodeSlotted w i = .ok j ↔ fieldAll w = false ∧ i (fieldKs w).toFin = j := by
  unfold decodeSlotted
  split <;> simp_all

/-- A KEYZERO word is accepted as all slots when ALL is 1 and KS is 0, as one slot when ALL is 0 (R94, R201). -/
theorem decodeKeyzero_eq_ok_iff (w : Word) (j : Instr) :
    decodeKeyzero w = .ok j ↔
      (fieldAll w = true ∧ fieldKs w = 0 ∧ .keyzeroAll = j) ∨
      (fieldAll w = false ∧ .keyzero (fieldKs w).toFin = j) := by
  unfold decodeKeyzero
  split <;> [(split <;> simp_all); simp_all]

/-! ## The encoder is the decoder's inverse -/

/-- A word whose reserved bits are 0 is the command word of its fields (R90, R100). -/
theorem commandWord_fields {w : Word} (h : fieldRsv w = 0) :
    commandWord (fieldOpc w) (fieldKs w).toFin (fieldAll w) = w := by
  have hfields := word_toNat_fields w
  rw [h] at hfields
  refine BitVec.eq_of_toNat_eq ?_
  rw [commandWord, BitVec.toNat_ofNat, BitVec.val_toFin, Nat.mod_eq_of_lt (by simp at hfields; omega), hfields]
  simp

/-- A word with opcode `opc` and no reserved bit, put together from its other two fields. -/
theorem commandWord_of_fields {w : Word} {opc : Nat} {ks : Fin 4} {all : Bool} (hrsv : fieldRsv w = 0)
    (hopc : (fieldOpc w).toNat = opc) (hks : (fieldKs w).toFin = ks) (hall : fieldAll w = all) :
    commandWord (BitVec.ofNat 8 opc) ks all = w := by
  subst hopc hks hall
  rw [BitVec.ofNat_toNat, BitVec.setWidth_eq]
  exact commandWord_fields hrsv

/-- The decoder reads back what the encoder writes (R92, R100). -/
theorem decodeWord_encode (i : Instr) : decodeWord (encode i) = .ok i := by
  cases i with
  | nop | keyzeroAll | ivload | ivstore | hmacupd | hmacfin | cmp | scrub | ctxclear => rfl
  | kdf k | keyload k | keyzero k | aesenc k | aesdec k | hmacinit k => fin_cases k <;> rfl

/-- A word that decodes to an instruction is its encoding (R92, R100): no reserved bit is set, and the opcode's
form fixes the other fields. -/
theorem encode_of_decodeWord {w : Word} {i : Instr} (h : decodeWord w = .ok i) : encode i = w := by
  unfold decodeWord at h
  split at h
  next => cases h
  next hrsv =>
    have hrsv : fieldRsv w = 0 := not_not.1 hrsv
    split at h
    case h_15 => cases h
    case h_4 hopc =>
      obtain ⟨hall, hks, rfl⟩ | ⟨hall, rfl⟩ := (decodeKeyzero_eq_ok_iff w i).1 h
      · exact commandWord_of_fields hrsv hopc (congrArg BitVec.toFin hks) hall
      · exact commandWord_of_fields hrsv hopc rfl hall
    case h_2 hopc | h_3 hopc | h_7 hopc | h_8 hopc | h_9 hopc =>
      obtain ⟨hall, rfl⟩ := (decodeSlotted_eq_ok_iff w _ i).1 h
      exact commandWord_of_fields hrsv hopc rfl hall
    all_goals
      rename_i hopc
      obtain ⟨hall, hks, rfl⟩ := (decodePlain_eq_ok_iff w _ i).1 h
      exact commandWord_of_fields hrsv hopc (congrArg BitVec.toFin hks) hall

/-- Different instructions have different encodings. -/
theorem encode_injective : Function.Injective encode := fun i j h =>
  Except.ok.inj ((decodeWord_encode i).symm.trans (h ▸ decodeWord_encode j))

/-- A word decodes to `i` exactly when it is `encode i`. -/
theorem decodeWord_eq_ok_iff (w : Word) (i : Instr) : decodeWord w = .ok i ↔ w = encode i :=
  ⟨fun h => (encode_of_decodeWord h).symm, fun h => h ▸ decodeWord_encode i⟩

/-! ## Legality -/

/-- Every encoding is legal (R94). -/
theorem legal_encode (i : Instr) : legal (encode i) = true := by
  cases i with
  | nop | keyzeroAll | ivload | ivstore | hmacupd | hmacfin | cmp | scrub | ctxclear => decide
  | kdf k | keyload k | keyzero k | aesenc k | aesdec k | hmacinit k => revert k; decide

/-- The decoder finds an instruction for every legal word (R94, R95): by ALL and the opcode. -/
theorem decodeWord_of_legal {w : Word} (h : legal w = true) : ∃ i, decodeWord w = .ok i := by
  have hopc : fieldOpc w = BitVec.ofNat 8 (fieldOpc w).toNat := by simp
  unfold legal at h
  split at h
  next => cases h
  next hrsv =>
    split at h
    next => cases h
    next hle =>
      rw [decodeWord, if_neg hrsv]
      generalize (fieldOpc w).toNat = n at hopc hle ⊢
      have hn : n < 14 := by omega
      cases hall : fieldAll w
      all_goals
        interval_cases n <;>
          simp [hopc, hall, decodePlain_eq_ok_iff, decodeSlotted_eq_ok_iff, decodeKeyzero_eq_ok_iff] at h ⊢
      all_goals simp [h]

/-- The decoder accepts exactly the legal words (R94). -/
theorem decodeWord_ok_iff_legal (w : Word) : (∃ i, decodeWord w = .ok i) ↔ legal w = true := by
  refine ⟨fun ⟨i, h⟩ => ?_, decodeWord_of_legal⟩
  rw [(decodeWord_eq_ok_iff w i).1 h]
  exact legal_encode i

/-- The decoder refuses an illegal word (R95). -/
theorem decodeWord_of_illegal {w : Word} (h : legal w = false) : ∃ r, decodeWord w = .error r := by
  cases hd : decodeWord w with
  | error r => exact ⟨r, rfl⟩
  | ok i => exact absurd ((decodeWord_ok_iff_legal w).1 ⟨i, hd⟩) (by simp [h])

/-! ## The match and mask table -/

/-- What the mask of the forms with a slot leaves out is the KS field (R92). -/
theorem and_slotMask (w : Word) : w &&& 0x300#32 = (fieldKs w).setWidth 32 <<< 8 := by
  refine BitVec.eq_of_getLsbD_eq fun i hi => ?_
  interval_cases i <;> simp [fieldKs]

/-- A word is its bits under the slot mask and its KS field. -/
theorem eq_or_of_slotMask {w m : Word} (h : w &&& 0xFFFFFCFF#32 = m) :
    w = m ||| (fieldKs w).setWidth 32 <<< 8 := by
  have hmasks : (0xFFFFFCFF#32 ||| 0x300#32) = BitVec.allOnes 32 := by decide
  rw [← and_slotMask, ← h, ← BitVec.and_or_distrib_left, hmasks, BitVec.and_allOnes]

/-- A row without slot has the full mask; the words of a row with a slot differ in the KS field only (R92). -/
theorem formTable_rows : ∀ r ∈ formTable,
    (r.mask = BitVec.allOnes 32 ∧ encode (r.form 0) = r.matchValue) ∨
    (r.mask = 0xFFFFFCFF#32 ∧
      ∀ k, encode (r.form k) = r.matchValue ||| (BitVec.ofFin (w := 2) k).setWidth 32 <<< 8) := by
  decide

/-- A word matches a row exactly when it is an encoding of the row's form (R92, R100). -/
theorem FormRow.matches_iff {r : FormRow} (hr : r ∈ formTable) (w : Word) :
    r.matches w = true ↔ ∃ k, w = encode (r.form k) := by
  have hencode : ∀ r ∈ formTable, ∀ k, r.matches (encode (r.form k)) = true := by decide
  refine ⟨fun h => ?_, fun ⟨k, hk⟩ => hk ▸ hencode r hr k⟩
  have hm : w &&& r.mask = r.matchValue := beq_iff_eq.1 h
  obtain ⟨hmask, hform⟩ | ⟨hmask, hform⟩ := formTable_rows r hr
  · exact ⟨0, by rw [hform, ← hm, hmask, BitVec.and_allOnes]⟩
  · exact ⟨(fieldKs w).toFin, by rw [hform]; exact eq_or_of_slotMask (hmask ▸ hm)⟩

/-- Every instruction is a form of the table (R92). -/
theorem exists_row (i : Instr) : ∃ r ∈ formTable, ∃ k, r.form k = i := by
  cases i with
  | nop | keyzeroAll | ivload | ivstore | hmacupd | hmacfin | cmp | scrub | ctxclear => decide
  | kdf k | keyload k | keyzero k | aesenc k | aesdec k | hmacinit k => revert k; decide

/-- A word is legal exactly when it matches a row: both say that it encodes an instruction (R92, R94). -/
theorem legal_iff_exists_row (w : Word) : legal w = true ↔ ∃ r ∈ formTable, r.matches w = true := by
  rw [← decodeWord_ok_iff_legal]
  constructor
  · rintro ⟨i, hi⟩
    obtain ⟨r, hr, k, rfl⟩ := exists_row i
    exact ⟨r, hr, (FormRow.matches_iff hr w).2 ⟨k, (decodeWord_eq_ok_iff w _).1 hi⟩⟩
  · rintro ⟨r, hr, hw⟩
    obtain ⟨k, rfl⟩ := (FormRow.matches_iff hr w).1 hw
    exact ⟨_, decodeWord_encode _⟩

/-- No instruction is a form of two rows (R92). -/
theorem formTable_forms_disjoint : formTable.Pairwise fun r q => ∀ k j, r.form k ≠ q.form j := by decide

/-- The bytes of a word decode as the word (R63, R96). -/
theorem decode_bytesOfWord (w : Word) : decode (bytesOfWord w) = decodeWord w :=
  congrArg decodeWord (wordOfBytes_extract w)

end Sys2Proof

open Sys2Proof Sys2Proof.Machine

/-- Settles O1. -/
theorem decodeEncodeAgree : Obligations.DecodeEncodeAgree :=
  ⟨fun i _ => decodeWord_encode i, fun _ _ h => encode_of_decodeWord h, decode_bytesOfWord⟩

/-- Settles O2. -/
theorem legalIffMatchesARow : Obligations.LegalIffMatchesARow := legal_iff_exists_row

/-- Settles O4. -/
theorem decodesExactlyTheLegalWords : Obligations.DecodesExactlyTheLegalWords := decodeWord_ok_iff_legal

/-- Settles O3: a word that matches two rows would be an encoding of both forms, and encodings are unique. -/
theorem formsAreDisjoint : Obligations.FormsAreDisjoint := by
  refine formTable_forms_disjoint.imp_of_mem fun {r q} hr hq hforms w hw => ?_
  obtain ⟨k, rfl⟩ := (FormRow.matches_iff hr w).1 hw
  refine Bool.eq_false_iff.2 fun hmatch => ?_
  obtain ⟨j, hj⟩ := (FormRow.matches_iff hq _).1 hmatch
  exact hforms k j (encode_injective hj)

/-- Settles O5: ten fixed words. -/
theorem sampleWordsDecode : Obligations.SampleWordsDecode := by
  exact ⟨rfl, rfl, rfl, rfl, rfl, rfl, rfl, rfl, rfl, rfl⟩

end

section
/-! What each command does at its completion step: the engine it leaves when its checks pass, the first check that
fails, and the frame. The commands but AESENC and AESDEC, which have a part of their own. -/

namespace Sys2Proof.Machine

/-! ## A command is its checks and its effect -/

/-- The engine that the pseudocode of `i` leaves when no check fails, before `DONE <- 1; BUSY <- 0`. Without a
context HMACUPD and HMACFIN fail, so their value there is not used (R315). -/
def effect (i : Instr) (s : State) : Engine :=
  match i with
  | .nop => s.engine
  | .kdf k => s.engine.loadKey k (kdf (s.memReadVec s.srcOff 16) (s.memRead s.auxOff s.passwordLen))
  | .keyload k => s.engine.loadKey k (s.memReadVec s.srcOff 32)
  | .keyzero k => s.engine.clearKey k
  | .keyzeroAll => s.engine.clearAllKeys
  | .ivload => s.engine.setChain ⟨s.memReadVec s.srcOff 16, true⟩
  | .ivstore => s.engine.memWrite s.dstOff s.engine.chain.value.toList
  | .aesenc k => s.engine.setCbc (encLoop (s.keyValue k) s.srcOff s.dstOff (s.lenCount / 16) s.cbcStart)
  | .aesdec k => s.engine.setCbc (decLoop (s.keyValue k) s.srcOff s.dstOff (s.lenCount / 16) s.cbcStart)
  | .hmacinit k => s.engine.setHctx (.active (s.keyValue k) [])
  | .hmacupd =>
    match s.engine.hctx with
    | .none => s.engine
    | .active key msg => s.engine.setHctx (.active key (msg ++ s.memRead s.srcOff s.lenCount))
  | .hmacfin =>
    match s.engine.hctx with
    | .none => s.engine
    | .active key msg => (s.engine.memWrite s.dstOff (hmacSha256 key msg)).setHctx .none
  | .cmp => s.engine.setMatch (ctEq (s.memRead s.srcOff s.lenCount) (s.memRead s.auxOff s.lenCount))
  | .scrub => s.engine.memWrite s.dstOff (zeros s.lenCount)
  | .ctxclear => (s.engine.setChain Chain.cleared).setHctx .none

/-- What a list of checks lets through: `e` when all pass, else the error of the first that fails (R314). -/
def checked (cs : List (CmdError × Bool)) (e : Engine) : Except CmdError Engine :=
  match cs with
  | [] => .ok e
  | c :: cs => if c.2 then checked cs e else .error c.1

/-- Every command makes the checks of its row of R315 in their order and then has its effect. -/
theorem exec_eq_checked (i : Instr) (s : State) : exec i s = complete s (checked (checks i s) (effect i s)) := by
  cases i with
  | nop | keyzero | keyzeroAll | ctxclear => rfl
  | kdf | keyload | ivload | ivstore | hmacinit | cmp | scrub =>
    simp only [exec, execKdf, execKeyload, execIvload, execIvstore, execHmacinit, execCmp, execScrub, require_bind]
    rfl
  | aesenc | aesdec =>
    simp only [exec, execAesenc, execAesdec, require_bind, State.wholeBlocks, beq_eq_decide]
    rfl
  | hmacupd | hmacfin =>
    simp only [exec, execHmacupd, execHmacfin, require_bind, checks, effect]
    cases s.engine.hctx with
    | none => rfl
    | active key msg => rfl

/-- The first check that fails decides (R314). -/
theorem checked_eq (cs : List (CmdError × Bool)) (e : Engine) :
    checked cs e = match (cs.find? fun x => !x.2).map Prod.fst with
      | some c => .error c
      | none => .ok e := by
  induction cs with
  | nil => rfl
  | cons c cs ih =>
    obtain ⟨c, _ | _⟩ := c
    · rfl
    · exact ih

/-- A command whose checks all pass has its effect (R37). -/
theorem exec_of_passed {i : Instr} {s : State} (h : firstError i s = none) :
    exec i s = .next { s with engine := (effect i s).succeed } := by
  have hfind : ((checks i s).find? fun x => !x.2).map Prod.fst = none := h
  rw [exec_eq_checked, checked_eq, hfind]
  rfl

/-- A command that fails a check takes the error of the first that fails (R312, R314). -/
theorem exec_of_failed {i : Instr} {s : State} {c : CmdError} (h : firstError i s = some c) :
    exec i s = .next { s with engine := s.engine.cmdError c } := by
  have hfind : ((checks i s).find? fun x => !x.2).map Prod.fst = some c := h
  rw [exec_eq_checked, checked_eq, hfind]
  rfl

/-- All checks pass when each of them does. -/
theorem firstError_eq_none_iff (i : Instr) (s : State) :
    firstError i s = none ↔ ∀ x ∈ checks i s, x.2 = true := by
  simp [firstError, List.find?_eq_none]

/-! ## Frames -/

/-- A command error changes nothing but the flags it names (R312). -/
theorem fails_cmdError (c : CmdError) (s : State) : Fails c s { s with engine := s.engine.cmdError c } :=
  ⟨⟨rfl, rfl, rfl, rfl, rfl, rfl, rfl, rfl, rfl, rfl, rfl, rfl, rfl, rfl, rfl, rfl⟩, rfl, rfl, rfl, rfl, rfl, rfl,
    rfl, fun _ => rfl⟩

/-- `f` differs from `e` at most in the key slots, CHAIN, HCTX, scratch, MATCH, DONE, BUSY and CUR: no command
touches the rest before it completes (R21, R30, R39). -/
structure Engine.Kept (e f : Engine) : Prop where
  ctrl : f.ctrl = e.ctrl
  cmd : f.cmd = e.cmd
  src : f.src = e.src
  dst : f.dst = e.dst
  len : f.len = e.len
  aux : f.aux = e.aux
  ovr : f.status.ovr = e.status.ovr
  err : f.status.err = e.status.err
  errcode : f.status.errcode = e.status.errcode

section
variable (e : Engine)

theorem Engine.kept_refl : e.Kept e := ⟨rfl, rfl, rfl, rfl, rfl, rfl, rfl, rfl, rfl⟩

theorem Engine.kept_setSlot (k : Fin 4) (x : KeySlot) : e.Kept (e.setSlot k x) :=
  ⟨rfl, rfl, rfl, rfl, rfl, rfl, rfl, rfl, rfl⟩

theorem Engine.kept_clearAllKeys : e.Kept e.clearAllKeys := ⟨rfl, rfl, rfl, rfl, rfl, rfl, rfl, rfl, rfl⟩

theorem Engine.kept_setChain (c : Chain) : e.Kept (e.setChain c) := ⟨rfl, rfl, rfl, rfl, rfl, rfl, rfl, rfl, rfl⟩

theorem Engine.kept_setHctx (h : Hctx) : e.Kept (e.setHctx h) := ⟨rfl, rfl, rfl, rfl, rfl, rfl, rfl, rfl, rfl⟩

theorem Engine.kept_setMatch (b : Bool) : e.Kept (e.setMatch b) := ⟨rfl, rfl, rfl, rfl, rfl, rfl, rfl, rfl, rfl⟩

theorem Engine.kept_memWrite (a : Nat) (v : Bytes) : e.Kept (e.memWrite a v) :=
  ⟨rfl, rfl, rfl, rfl, rfl, rfl, rfl, rfl, rfl⟩

theorem Engine.kept_setCbc (x : CbcState) : e.Kept (e.setCbc x) := ⟨rfl, rfl, rfl, rfl, rfl, rfl, rfl, rfl, rfl⟩

end

theorem Engine.Kept.trans {e f g : Engine} (h : e.Kept f) (h' : f.Kept g) : e.Kept g :=
  ⟨h'.ctrl.trans h.ctrl, h'.cmd.trans h.cmd, h'.src.trans h.src, h'.dst.trans h.dst, h'.len.trans h.len,
    h'.aux.trans h.aux, h'.ovr.trans h.ovr, h'.err.trans h.err, h'.errcode.trans h.errcode⟩

theorem kept_effect (i : Instr) (s : State) : s.engine.Kept (effect i s) := by
  cases i with
  | nop => exact s.engine.kept_refl
  | kdf k | keyload k | keyzero k => exact s.engine.kept_setSlot k _
  | keyzeroAll => exact s.engine.kept_clearAllKeys
  | ivload => exact s.engine.kept_setChain _
  | ivstore | scrub => exact s.engine.kept_memWrite _ _
  | aesenc | aesdec => exact s.engine.kept_setCbc _
  | hmacinit => exact s.engine.kept_setHctx _
  | hmacupd =>
    simp only [effect]
    split
    · exact s.engine.kept_refl
    · exact s.engine.kept_setHctx _
  | hmacfin =>
    simp only [effect]
    split
    · exact s.engine.kept_refl
    · exact (s.engine.kept_memWrite _ _).trans (Engine.kept_setHctx _ _)
  | cmp => exact s.engine.kept_setMatch _
  | ctxclear => exact (s.engine.kept_setChain _).trans (Engine.kept_setHctx _ _)

/-- The completion of a command whose checks pass is a success (R37). -/
theorem succeeds_effect (i : Instr) (s : State) : Succeeds s { s with engine := (effect i s).succeed } := by
  have h := kept_effect i s
  exact ⟨⟨rfl, rfl, rfl, rfl, rfl, rfl, rfl, h.ctrl, h.cmd, h.src, h.dst, h.len, h.aux, h.ovr, rfl, rfl⟩, rfl, h.err,
    h.errcode⟩

/-- A command whose checks pass succeeds, and the engine it leaves is its effect, completed. -/
theorem exec_succeeds {i : Instr} {s : State} (h : ∀ x ∈ checks i s, x.2 = true) :
    ∃ t, exec i s = .next t ∧ Succeeds s t ∧ t.engine = (effect i s).succeed :=
  ⟨_, exec_of_passed ((firstError_eq_none_iff i s).2 h), succeeds_effect i s, rfl⟩

/-- Every command answers a next state: the first failed check is reported, or the command succeeds (R312, R314). -/
theorem exec_reports (i : Instr) (s : State) : ∃ t, exec i s = .next t ∧
    match firstError i s with
    | some c => Fails c s t
    | none => Succeeds s t := by
  cases h : firstError i s with
  | some c => exact ⟨_, exec_of_failed h, fails_cmdError c s⟩
  | none => exact ⟨_, exec_of_passed h, succeeds_effect i s⟩

/-- Everything a command can do. -/
theorem exec_cases {i : Instr} {s t : State} (h : exec i s = .next t) :
    (firstError i s = none ∧ t = { s with engine := (effect i s).succeed }) ∨
    ∃ c, firstError i s = some c ∧ t = { s with engine := s.engine.cmdError c } := by
  cases hf : firstError i s with
  | none => exact .inl ⟨rfl, (Host.Outcome.next.inj ((exec_of_passed hf).symm.trans h)).symm⟩
  | some c => exact .inr ⟨c, rfl, (Host.Outcome.next.inj ((exec_of_failed hf).symm.trans h)).symm⟩

/-- No command clears ERR (R21, R312). -/
theorem exec_keeps_error {i : Instr} {s t : State} (h : exec i s = .next t) (herr : t.engine.status.err = false) :
    s.engine.status.err = false := by
  obtain ⟨_, rfl⟩ | ⟨c, _, rfl⟩ := exec_cases h
  · rw [← herr, Engine.succeed_err, (kept_effect i s).err]
  · simp at herr

/-! ## The completion step -/

/-- An illegal word takes ILLEGAL_CMD (R95). -/
theorem completion_of_illegal {s : State} (h : legal s.engine.cur.word = false) :
    completion s = .next { s with engine := s.engine.cmdError .illegalCmd } := by
  obtain ⟨r, hr⟩ := decodeWord_of_illegal h
  simp only [completion, State.fetch, hr, complete_error]

theorem completion_of_decoded {s : State} {i : Instr} (h : decodeWord s.engine.cur.word = .ok i) :
    completion s = exec i s := by
  simp only [completion, State.fetch, h]

/-- Everything a completion can do: it has the effect of the instruction its word decodes to, or takes a command
error (R37, R312). -/
theorem completion_cases (s : State) :
    (∃ i, decodeWord s.engine.cur.word = .ok i ∧ firstError i s = none ∧
      completion s = .next { s with engine := (effect i s).succeed }) ∨
    ∃ c, completion s = .next { s with engine := s.engine.cmdError c } := by
  cases hd : decodeWord s.engine.cur.word with
  | error r => exact .inr ⟨.illegalCmd, by simp only [completion, State.fetch, hd, complete_error]⟩
  | ok i =>
    rw [completion_of_decoded hd]
    cases hf : firstError i s with
    | none => exact .inl ⟨i, rfl, hf, exec_of_passed hf⟩
    | some c => exact .inr ⟨c, exec_of_failed hf⟩

theorem State.due_iff (s : State) : s.due = true ↔ s.engine.status.busy = true ∧ s.delay = 0 := by
  simp [State.due]

theorem step_of_due {s : State} (h : s.due = true) : step s = completion s := if_pos h

theorem step_of_not_due {s : State} (h : s.due = false) : step s = .next (hostStep s) := if_neg (by simp [h])

/-- A due command whose word is illegal takes ILLEGAL_CMD in the next step (R95, R312). -/
theorem step_of_illegal {s : State} (hdue : s.due = true) (h : legal s.engine.cur.word = false) :
    ∃ t, step s = .next t ∧ Fails .illegalCmd s t :=
  ⟨_, (step_of_due hdue).trans (completion_of_illegal h), fails_cmdError .illegalCmd s⟩

/-- A step is the completion of the due command or the host's step; neither stops the machine (R310, R357). -/
theorem exists_step (s : State) : ∃ t, step s = .next t := by
  cases hdue : s.due with
  | false => exact ⟨_, step_of_not_due hdue⟩
  | true =>
    rw [step_of_due hdue]
    obtain ⟨i, _, _, h⟩ | ⟨c, h⟩ := completion_cases s
    all_goals exact ⟨_, h⟩

end Sys2Proof.Machine

open Sys2Proof Sys2Proof.Machine

/-- Settles O28. -/
theorem firstFailedCheckIsReported : Obligations.FirstFailedCheckIsReported := exec_reports

/-- Settles O8. -/
theorem stepNeverStops : Obligations.StepNeverStops := exists_step

/-- Settles O6. -/
theorem stepRunsDecodedCommand : Obligations.StepRunsDecodedCommand := fun s _ hbusy hdelay hword =>
  (step_of_due (s.due_iff.2 ⟨hbusy, hdelay⟩)).trans (completion_of_decoded hword)

/-- Settles O7. -/
theorem illegalWordCompletesWithIllegalCmd : Obligations.IllegalWordCompletesWithIllegalCmd :=
  fun s hbusy hdelay hword => step_of_illegal (s.due_iff.2 ⟨hbusy, hdelay⟩) hword

/-- Settles O9. -/
theorem stepServesNextEvent : Obligations.StepServesNextEvent := by
  intro s ev rest hdue hqueue
  rw [step_of_not_due hdue, hostStep, hqueue]

end

section
/-! The commands of 40_kdf.md, 41_mac.md, 43_utility.md and of 42_cipher.md section 1, one by one, from the effect
each has when its checks pass. -/

namespace Sys2Proof.Machine

/-! ## What a command's effect shows in scratch, slots and context -/

theorem sameScratch_of_eq {s t : State} (h : t.engine.scr = s.engine.scr) : SameScratch s t := fun a => by rw [h]

section
variable {s t : State} {a : Nat} {v : Bytes} (hwf : s.engine.scr.wf = true)
  (h : t.engine.scr = s.engine.scr.writeBytes a v)
include hwf h

/-- Inside the range of a `MemWrite` stand the bytes written (R10). -/
theorem read_memWrite_inside {i : Nat} (hi : i < v.length) : t.engine.scr.read (a + i) = v.getD i 0 := by
  rw [h, Memory.read_writeBytes hwf, if_pos (by omega), Nat.add_sub_cancel_left]

/-- Outside the range of a `MemWrite` nothing changes (R10). -/
theorem sameScratchOutside_memWrite : SameScratchOutside s t a v.length := fun x hx => by
  rw [h, Memory.read_writeBytes hwf, if_neg hx]

end

/-- `MemRead` byte by byte (R10). -/
theorem getD_readBytes (m : Memory) (a : Nat) {n i : Nat} (h : i < n) :
    (m.readBytes a n).getD i 0 = m.read (a + i) := by
  rw [List.getD_eq_getElem _ _ (by simpa using h), Memory.getElem_readBytes]

/-- `ct_eq` of two regions holds exactly when they agree at every index (R15, R143). -/
theorem ctEq_readBytes_iff (m : Memory) (a b n : Nat) :
    ctEq (m.readBytes a n) (m.readBytes b n) = true ↔ ∀ i, i < n → m.read (a + i) = m.read (b + i) := by
  simp [ctEq, Memory.readBytes, List.zipWith_map]

/-! ## HMACUPD and its pieces -/

/-- The latched HMACUPD of `n` bytes at `a`. -/
def latchedUpd (a n : Word) (s : State) : State := { s with engine := { s.engine with cur := ⟨0x9, a, 0, n, 0⟩ } }

/-- An HMACUPD that leaves ERR = 0 found a context and appended its bytes to the message, and changed no scratch
byte (R141). -/
theorem hmacupd_of_no_error {s t : State} (h : exec .hmacupd s = .next t) (herr : t.engine.status.err = false) :
    ∃ key msg, s.engine.hctx = .active key msg ∧
      t.engine.hctx = .active key (msg ++ s.engine.scr.readBytes s.engine.cur.src.toNat s.engine.cur.len.toNat) ∧
      t.engine.scr = s.engine.scr := by
  obtain ⟨hpass, rfl⟩ | ⟨c, _, rfl⟩ := exec_cases h
  · have hchecks := (firstError_eq_none_iff _ s).1 hpass
    cases hctx : s.engine.hctx with
    | none => simp [checks, hctx, Hctx.isActive] at hchecks
    | active key msg => exact ⟨key, msg, rfl, by simp [effect, hctx]; rfl, by simp [effect, hctx]⟩
  · simp at herr

/-- HMACUPD of two adjacent pieces leaves the context of HMACUPD of the joined piece (R145). -/
theorem hmacupd_split {s t u v : State} {a n₁ n₂ : Word} (hn : n₁.toNat + n₂.toNat < 2 ^ 32)
    (ha : a.toNat + n₁.toNat < 2 ^ 32) (ht : exec .hmacupd (latchedUpd a n₁ s) = .next t)
    (hu : exec .hmacupd (latchedUpd (a + n₁) n₂ t) = .next u)
    (hv : exec .hmacupd (latchedUpd a (n₁ + n₂) s) = .next v)
    (hue : u.engine.status.err = false) (hve : v.engine.status.err = false) : u.engine.hctx = v.engine.hctx := by
  have hte : t.engine.status.err = false :=
    exec_keeps_error (s := latchedUpd (a + n₁) n₂ t) hu hue
  obtain ⟨key, msg, hs, htctx, htscr⟩ := hmacupd_of_no_error ht hte
  obtain ⟨key', msg', ht', huctx, _⟩ := hmacupd_of_no_error hu hue
  obtain ⟨key'', msg'', hs', hvctx, _⟩ := hmacupd_of_no_error hv hve
  obtain ⟨rfl, rfl⟩ := Hctx.active.inj (hs.symm.trans hs')
  obtain ⟨rfl, rfl⟩ := Hctx.active.inj (htctx.symm.trans ht')
  have hsum : (n₁ + n₂).toNat = n₁.toNat + n₂.toNat := by rw [BitVec.toNat_add, Nat.mod_eq_of_lt hn]
  have hnext : (a + n₁).toNat = a.toNat + n₁.toNat := by rw [BitVec.toNat_add, Nat.mod_eq_of_lt ha]
  rw [huctx, hvctx]
  simp only [latchedUpd] at htscr ⊢
  rw [htscr, hsum, hnext, Memory.readBytes_add, List.append_assoc]

end Sys2Proof.Machine

open Sys2Proof Sys2Proof.Machine

/-- Settles O12. -/
theorem nopCompletes : Obligations.NopCompletes := by
  intro s
  obtain ⟨t, hexec, hsucc, ht⟩ := exec_succeeds (i := .nop) (s := s) (by simp [checks])
  refine ⟨t, hexec, hsucc, ?_, ?_, ?_, ?_, sameScratch_of_eq ?_⟩
  all_goals rw [ht]; rfl

/-- Settles O13: both range checks are hypotheses, and the effect is the slot write. -/
theorem kdfWritesDerivedKey : Obligations.KdfWritesDerivedKey := by
  intro k s hsrc haux
  obtain ⟨t, hexec, hsucc, ht⟩ := exec_succeeds (i := .kdf k) (s := s) (by simp [checks, hsrc, haux])
  have hks : t.engine.ks = (s.engine.setSlot k
      ⟨kdf (s.memReadVec s.srcOff 16) (s.memRead s.auxOff s.passwordLen), true⟩).ks := by rw [ht]; rfl
  refine ⟨t, hexec, hsucc, ?slot, fun j hj => ?others, ?_, ?_, ?_, sameScratch_of_eq ?_⟩
  case slot => rw [hks, getElem_setSlot, if_pos rfl]; rfl
  case others => rw [hks, getElem_setSlot, if_neg hj]
  all_goals rw [ht]; rfl

/-- Settles O14. -/
theorem keyloadCopiesScratch : Obligations.KeyloadCopiesScratch := by
  intro k s hsrc
  obtain ⟨t, hexec, hsucc, ht⟩ := exec_succeeds (i := .keyload k) (s := s) (by simp [checks, hsrc])
  have hks : t.engine.ks = (s.engine.setSlot k ⟨s.memReadVec s.srcOff 32, true⟩).ks := by rw [ht]; rfl
  refine ⟨t, hexec, hsucc, ?valid, fun i => ?byte, fun j hj => ?others, ?_, ?_, ?_, sameScratch_of_eq ?_⟩
  case valid => rw [hks, getElem_setSlot, if_pos rfl]
  case byte => rw [hks, getElem_setSlot, if_pos rfl]; exact Memory.getElem_readVec _ _ _ _ i.isLt
  case others => rw [hks, getElem_setSlot, if_neg hj]
  all_goals rw [ht]; rfl

/-- Settles O15: KEYZERO has no check, and erases one slot or all. -/
theorem keyzeroErasesSlots : Obligations.KeyzeroErasesSlots := by
  refine ⟨fun k s => ?one, fun s => ?all⟩
  case one =>
    obtain ⟨t, hexec, hsucc, ht⟩ := exec_succeeds (i := .keyzero k) (s := s) (by simp [checks])
    have hks : t.engine.ks = (s.engine.setSlot k KeySlot.cleared).ks := by rw [ht]; rfl
    refine ⟨t, hexec, hsucc, ?slot, fun j hj => ?others, ?_, ?_, ?_, sameScratch_of_eq ?_⟩
    case slot => rw [hks, getElem_setSlot, if_pos rfl]; rfl
    case others => rw [hks, getElem_setSlot, if_neg hj]
    all_goals rw [ht]; rfl
  case all =>
    obtain ⟨t, hexec, hsucc, ht⟩ := exec_succeeds (i := .keyzeroAll) (s := s) (by simp [checks])
    refine ⟨t, hexec, hsucc, fun j => ?slot, ?_, ?_, ?_, sameScratch_of_eq ?_⟩
    case slot => rw [ht]; exact getElem_clearAllKeys s.engine j
    all_goals rw [ht]; rfl

/-- Settles O16. -/
theorem ivloadCopiesScratch : Obligations.IvloadCopiesScratch := by
  intro s hsrc
  obtain ⟨t, hexec, hsucc, ht⟩ := exec_succeeds (i := .ivload) (s := s) (by simp [checks, hsrc])
  have hchain : t.engine.chain = ⟨s.memReadVec s.srcOff 16, true⟩ := by rw [ht]; rfl
  refine ⟨t, hexec, hsucc, by rw [hchain], fun i => ?byte, ?_, ?_, ?_, sameScratch_of_eq ?_⟩
  case byte => rw [hchain]; exact Memory.getElem_readVec _ _ _ _ i.isLt
  all_goals rw [ht]; rfl

/-- Settles O17, by what a read gives after `MemWrite` inside and outside its range. -/
theorem ivstoreCopiesChain : Obligations.IvstoreCopiesChain := by
  intro s hwf hdst hvalid
  obtain ⟨t, hexec, hsucc, ht⟩ := exec_succeeds (i := .ivstore) (s := s) (by simp [checks, hdst, hvalid])
  have hscr : t.engine.scr = s.engine.scr.writeBytes s.engine.cur.dst.toNat s.engine.chain.value.toList := by
    rw [ht]; rfl
  refine ⟨t, hexec, hsucc, fun i => ?inside, ?outside, ?_, ?_, ?_, ?_⟩
  case inside =>
    rw [read_memWrite_inside hwf hscr (by simp)]
    simp
  case outside => simpa using sameScratchOutside_memWrite hwf hscr
  all_goals rw [ht]; rfl

/-- Settles O22. -/
theorem hmacinitStartsContext : Obligations.HmacinitStartsContext := by
  intro k s hvalid
  obtain ⟨t, hexec, hsucc, ht⟩ := exec_succeeds (i := .hmacinit k) (s := s) (by simpa [checks] using hvalid)
  refine ⟨t, hexec, hsucc, ?_, ?_, ?_, ?_, sameScratch_of_eq ?_⟩
  all_goals rw [ht]; rfl

/-- Settles O23: the piece is `MemRead(src, len)`. -/
theorem hmacupdAppendsMessage : Obligations.HmacupdAppendsMessage := by
  intro s key msg hsrc hctx hlen
  have hpass : ∀ x ∈ checks .hmacupd s, x.2 = true := by
    simp only [checks, hctx, Hctx.isActive, Hctx.msgLength]
    simp [hsrc]
    exact hlen
  obtain ⟨t, hexec, hsucc, ht⟩ := exec_succeeds hpass
  simp only [effect, hctx] at ht
  refine ⟨t, hexec, hsucc, ⟨s.memRead s.srcOff s.lenCount, by simp [ht], Memory.length_readBytes _ _ _,
    fun i hi => getD_readBytes _ _ hi⟩, ?_, ?_, ?_, sameScratch_of_eq ?_⟩
  all_goals simp [ht]

/-- Settles O24, by what a read gives after `MemWrite` inside and outside its range. -/
theorem hmacfinWritesTag : Obligations.HmacfinWritesTag := by
  intro s key msg hwf hdst hctx
  have hpass : ∀ x ∈ checks .hmacfin s, x.2 = true := by simp [checks, hdst, hctx, Hctx.isActive]
  obtain ⟨t, hexec, hsucc, ht⟩ := exec_succeeds hpass
  simp only [effect, hctx] at ht
  have hscr : t.engine.scr = s.engine.scr.writeBytes s.engine.cur.dst.toNat (hmacSha256 key msg) := by
    rw [ht, Engine.succeed_scr, Engine.setHctx_scr, Engine.memWrite_scr, State.dstOff]
  refine ⟨t, hexec, hsucc, by simp [ht], fun i hi => ?inside, ?outside, ?_, ?_, ?_⟩
  case inside => exact read_memWrite_inside hwf hscr (by simpa using hi)
  case outside => simpa using sameScratchOutside_memWrite hwf hscr
  all_goals simp [ht]

/-- Settles O25. -/
theorem cmpSetsMatch : Obligations.CmpSetsMatch := by
  intro s hsrc haux
  obtain ⟨t, hexec, hsucc, ht⟩ := exec_succeeds (i := .cmp) (s := s) (by simp [checks, hsrc, haux])
  refine ⟨t, hexec, hsucc, ?matched, ?_, ?_, ?_, sameScratch_of_eq ?_⟩
  case matched => rw [ht]; exact ctEq_readBytes_iff _ _ _ _
  all_goals rw [ht]; rfl

/-- Settles O26, by what a read gives after `MemWrite` inside and outside its range. -/
theorem scrubZeroesRegion : Obligations.ScrubZeroesRegion := by
  intro s hwf hdst
  obtain ⟨t, hexec, hsucc, ht⟩ := exec_succeeds (i := .scrub) (s := s) (by simp [checks, hdst])
  have hscr : t.engine.scr = s.engine.scr.writeBytes s.engine.cur.dst.toNat (zeros s.engine.cur.len.toNat) := by
    rw [ht]; rfl
  refine ⟨t, hexec, hsucc, fun i hi => ?inside, ?outside, ?_, ?_, ?_, ?_⟩
  case inside =>
    rw [read_memWrite_inside hwf hscr (by simpa using hi)]
    simp [zeros, rep, hi]
  case outside => simpa using sameScratchOutside_memWrite hwf hscr
  all_goals rw [ht]; rfl

/-- Settles O27. -/
theorem ctxclearClearsContexts : Obligations.CtxclearClearsContexts := by
  intro s
  obtain ⟨t, hexec, hsucc, ht⟩ := exec_succeeds (i := .ctxclear) (s := s) (by simp [checks])
  refine ⟨t, hexec, hsucc, ?_, ?_, ?_, ?_, sameScratch_of_eq ?_⟩
  all_goals rw [ht]; rfl

/-- Settles O29: no error at the end means that each HMACUPD appended its bytes. -/
theorem hmacSplitInvariance : Obligations.HmacSplitInvariance :=
  fun _ _ _ _ _ _ _ hn ha ht hu hv _ hue hve => hmacupd_split hn ha ht hu hv hue hve

end

section
/-! The invariant of the machine: what a bus access can do, said once, and that completions, accesses and resets
keep each clause. -/

namespace Sys2Proof.Machine

/-! ## What a bus access can do -/

/-- A bus access only sets the response, or it reads or writes a word of the window (R61, R62, R340). -/
theorem busAccess_cases (a : Access) (s : State) :
    (∃ r, busAccess a s = s.respond r) ∨
    (s.resetHeld = false ∧ ∃ off, off < s.params.windowBytes ∧ off % 4 = 0 ∧
      (busAccess a s = readWindow off s ∨
        ∃ v, a = .write .w32 (s.params.engineBase + off) v ∧
          busAccess a s = (writeWindow off v s).respond .ack)) := by
  unfold busAccess
  split
  next => exact .inl ⟨_, rfl⟩
  next hheld =>
    split
    next => exact .inl ⟨_, rfl⟩
    next hin =>
      split
      next => exact .inl ⟨_, rfl⟩
      next hok =>
        have hheld : s.resetHeld = false := Bool.eq_false_iff.2 hheld
        simp only [State.inWindow, Bool.not_eq_true', Bool.not_eq_false, Bool.and_eq_true, decide_eq_true_eq] at hin
        simp only [accessOk, Bool.not_eq_true', Bool.not_eq_false, Bool.and_eq_true, beq_iff_eq] at hok
        refine .inr ⟨hheld, a.addr - s.params.engineBase, by omega, hok.2, ?_⟩
        cases a with
        | read w addr => exact .inl rfl
        | write w addr v =>
          simp only [Access.addr, Access.width] at hin hok ⊢
          exact .inr ⟨v, by rw [hok.1, Nat.add_sub_cancel' hin.1], rfl⟩

/-- A read of the window changes only the response, and the counter of free values where it draws one (R66, R69). -/
theorem readWindow_eq (off : Nat) (s : State) :
    ∃ r, readWindow off s = { s.respond r with
      readDraws := s.readDraws + (decide (scratchWindow ≤ off) && s.engine.status.busy).toNat } := by
  unfold readWindow
  split
  next hoff =>
    rw [decide_eq_false (not_le.2 hoff)]
    split <;> exact ⟨_, rfl⟩
  next hoff =>
    rw [decide_eq_true (not_lt.1 hoff)]
    cases s.engine.status.busy <;> exact ⟨_, rfl⟩

/-- A write of the window is a register's write, nothing, or a write of scratch (R32, R61). -/
theorem writeWindow_cases (off : Nat) (v : Word) (s : State) :
    (∃ r, regAt off = some r ∧ writeWindow off v s = writeReg r v s) ∨ writeWindow off v s = s ∨
    (scratchWindow ≤ off ∧ writeWindow off v s = writeScratch (off - scratchWindow) v s) := by
  unfold writeWindow
  split
  · split
    next r hr => exact .inl ⟨r, hr, rfl⟩
    next => exact .inr (.inl rfl)
  next hoff => exact .inr (.inr ⟨not_lt.1 hoff, rfl⟩)

/-- A scratch write takes effect or is dropped (R64, R65). -/
theorem writeScratch_cases (a : Nat) (v : Word) (s : State) :
    (s.engine.status.busy = false ∧ writeScratch a v s = { s with engine := s.engine.memWrite a (bytesOfWord v) }) ∨
    (s.engine.status.busy = true ∧ writeScratch a v s = s.drop) := by
  unfold writeScratch
  cases hb : s.engine.status.busy <;> simp

/-! ## The data clauses -/

/-- The clauses of the invariant on what the engine stores: scratch, key slots, CHAIN and HCTX. -/
structure Engine.DataInv (lim : Nat) (e : Engine) : Prop where
  scrWf : e.scr.wf = true
  scrInside : e.scr.inside lim = true
  slotCleared : ∀ k : Fin 4, e.ks[k].valid = false → e.ks[k] = KeySlot.cleared
  chainCleared : e.chain.valid = false → e.chain = Chain.cleared
  hmacBound : e.hctx.msgLength ≤ Config.hmacMaxMsg

theorem State.Inv.dataInv {s : State} (h : s.Inv) : s.engine.DataInv s.params.scratchBytes :=
  ⟨h.scrWf, h.scrInside, h.slotCleared, h.chainCleared, h.hmacBound⟩

namespace Engine.DataInv
variable {lim : Nat} {e : Engine} (h : e.DataInv lim)
include h

theorem setSlot (k : Fin 4) {x : KeySlot} (hx : x.valid = false → x = KeySlot.cleared) :
    (e.setSlot k x).DataInv lim := by
  refine { h with slotCleared := fun j hj => ?_ }
  rw [getElem_setSlot] at hj ⊢
  by_cases hjk : j = k
  · rw [if_pos hjk] at hj ⊢
    exact hx hj
  · rw [if_neg hjk] at hj ⊢
    exact h.slotCleared j hj

theorem clearAllKeys : e.clearAllKeys.DataInv lim :=
  { h with slotCleared := fun j _ => getElem_clearAllKeys e j }

theorem setChain {c : Chain} (hc : c.valid = false → c = Chain.cleared) : (e.setChain c).DataInv lim :=
  { h with chainCleared := hc }

theorem setHctx {c : Hctx} (hc : c.msgLength ≤ Config.hmacMaxMsg) : (e.setHctx c).DataInv lim :=
  { h with hmacBound := hc }

theorem setMatch (b : Bool) : (e.setMatch b).DataInv lim := { h with }

theorem memWrite {a : Nat} {v : Bytes} (ha : a + v.length ≤ lim) : (e.memWrite a v).DataInv lim :=
  { h with
    scrWf := Memory.wf_writeBytes h.scrWf a v
    scrInside := Memory.inside_writeBytes v h.scrInside ha }

theorem setCbc {x : CbcState} (hx : x.scr.wf = true ∧ x.scr.inside lim = true) (hvalid : e.chain.valid = true) :
    (e.setCbc x).DataInv lim :=
  { h with
    scrWf := hx.1
    scrInside := hx.2
    chainCleared := fun hc => by simp [hvalid] at hc }

end Engine.DataInv

/-- A message of no bytes is within the bound. -/
theorem msgLength_none_le : Hctx.none.msgLength ≤ Config.hmacMaxMsg := Nat.zero_le _

/-- The effect of a command whose checks pass keeps the data clauses: a slot or CHAIN it leaves invalid is cleared,
its scratch writes are inside scratch, and a message it lengthens fits (R313, R315). -/
theorem effect_dataInv {i : Instr} {s : State} (h : s.engine.DataInv s.params.scratchBytes)
    (hpass : firstError i s = none) : (effect i s).DataInv s.params.scratchBytes := by
  have hchecks := (firstError_eq_none_iff i s).1 hpass
  cases i with
  | nop => exact h
  | kdf k | keyload k => exact h.setSlot k (fun hv => by simp at hv)
  | keyzero k => exact h.setSlot k (fun _ => rfl)
  | keyzeroAll => exact h.clearAllKeys
  | ivload => exact h.setChain (fun hv => by simp at hv)
  | ivstore =>
    simp [checks] at hchecks
    exact h.memWrite (by simpa [State.dstOff] using hchecks.1)
  | aesenc k =>
    simp [checks] at hchecks
    obtain ⟨_, hdst, hlen, _, hchain⟩ := hchecks
    refine h.setCbc (encLoop_scr h.scrWf h.scrInside ?_) hchain
    simp only [State.dstOff, State.lenCount]
    omega
  | aesdec k =>
    simp [checks] at hchecks
    obtain ⟨_, hdst, hlen, _, hchain⟩ := hchecks
    refine h.setCbc (decLoop_scr h.scrWf h.scrInside ?_) hchain
    simp only [State.dstOff, State.lenCount]
    omega
  | hmacinit k => exact h.setHctx (Nat.zero_le _)
  | hmacupd =>
    simp only [effect]
    split
    next => exact h
    next key msg hctx =>
      refine h.setHctx ?_
      simp [checks, hctx, Hctx.isActive, Hctx.msgLength] at hchecks
      simpa [Hctx.msgLength, State.memRead, State.lenCount, Config.hmacMaxMsg] using hchecks.2
  | hmacfin =>
    simp only [effect]
    split
    next => exact h
    next key msg hctx =>
      refine (h.memWrite ?_).setHctx msgLength_none_le
      simp [checks] at hchecks
      simpa [State.dstOff] using hchecks.1
  | cmp => exact h.setMatch _
  | scrub =>
    simp [checks] at hchecks
    exact h.memWrite (by simpa [State.dstOff, State.lenCount] using hchecks)
  | ctxclear => exact (h.setChain fun _ => rfl).setHctx msgLength_none_le

/-! ## The reset state -/

/-- Every reset state has the invariant (R341). -/
theorem State.inv_of_reset {t : State} (he : t.engine = Engine.reset) (hd : t.delay = 0) : t.Inv where
  scrWf := by rw [he]; rfl
  scrInside := by rw [he]; rfl
  doneOrErr := by rw [he]; exact fun _ => rfl
  errcode := by rw [he]; decide
  errcodeKnown := by rw [he]; decide
  busyFlags := by rw [he]; exact fun hb => by cases hb
  busyCur := by rw [he]; exact fun hb => by cases hb
  idleCur := by rw [he]; exact fun _ => ⟨rfl, hd⟩
  slotCleared := by rw [he]; exact fun k _ => getElem_reset_ks k
  chainCleared := by rw [he]; exact fun _ => rfl
  hmacBound := by rw [he]; exact msgLength_none_le
  heldReset := fun _ => he

/-! ## Completions keep the invariant -/

namespace State.Inv
variable {s : State} (h : s.Inv)
include h

/-- The engine held in reset is idle (R340, R341). -/
theorem released_of_busy (hb : s.engine.status.busy = true) : s.resetHeld = false := by
  refine Bool.eq_false_iff.2 fun hheld => ?_
  rw [h.heldReset hheld] at hb
  cases hb

theorem succeed (hdue : s.due = true) {e : Engine} (he : e.DataInv s.params.scratchBytes) (hkept : s.engine.Kept e) :
    State.Inv { s with engine := e.succeed } := by
  obtain ⟨hbusy, hdelay⟩ := s.due_iff.1 hdue
  obtain ⟨_, herr, _⟩ := h.busyFlags hbusy
  have heerr : e.status.err = false := hkept.err.trans herr
  exact
    { he with
      doneOrErr := fun _ => heerr
      errcode := by
        show e.status.errcode ≠ 0x00 ↔ e.status.err = true
        rw [hkept.errcode, hkept.err]; exact h.errcode
      errcodeKnown := by
        show e.status.errcode.toNat ≤ 0x07
        rw [hkept.errcode]; exact h.errcodeKnown
      busyFlags := fun hb => by cases hb
      busyCur := fun hb => by cases hb
      idleCur := fun _ => ⟨rfl, hdelay⟩
      heldReset := fun hheld => by simp [h.released_of_busy hbusy] at hheld }

theorem cmdError (hdue : s.due = true) (c : CmdError) : State.Inv { s with engine := s.engine.cmdError c } := by
  obtain ⟨hbusy, hdelay⟩ := s.due_iff.1 hdue
  obtain ⟨hdone, _, _⟩ := h.busyFlags hbusy
  have hcode : c.code ≠ 0x00 ∧ c.code.toNat ≤ 0x07 := by cases c <;> decide
  exact
    { h with
      doneOrErr := fun hd => by simp [hdone] at hd
      errcode := ⟨fun _ => rfl, fun _ => hcode.1⟩
      errcodeKnown := hcode.2
      busyFlags := fun hb => by cases hb
      busyCur := fun hb => by cases hb
      idleCur := fun _ => ⟨rfl, hdelay⟩
      heldReset := fun hheld => by simp [h.released_of_busy hbusy] at hheld }

/-- The completion step keeps the invariant (R37). -/
theorem completion (hdue : s.due = true) {t : State} (ht : completion s = .next t) : t.Inv := by
  obtain ⟨i, _, hpass, hnext⟩ | ⟨c, hnext⟩ := completion_cases s
  · obtain rfl := Host.Outcome.next.inj (hnext.symm.trans ht)
    exact h.succeed hdue (effect_dataInv h.dataInv hpass) (kept_effect i s)
  · obtain rfl := Host.Outcome.next.inj (hnext.symm.trans ht)
    exact h.cmdError hdue c

/-! ## The host's accesses keep the invariant -/

/-- The invariant does not look at the queue, the response or the counters. -/
theorem respond (r : Response) : (s.respond r).Inv := { h with }

theorem readWindow (off : Nat) : (readWindow off s).Inv := by
  obtain ⟨r, hread⟩ := readWindow_eq off s
  rw [hread]
  exact { h with }

/-- Time that passes only shortens the latency of a command in flight (R354). -/
theorem tick (q : List Event) : State.Inv { s.tick with queue := q } := by
  unfold State.tick
  split
  next hb => exact { h with idleCur := fun hb' => by simp [hb] at hb' }
  next => exact { h with }

variable (hheld : s.resetHeld = false)
include hheld

theorem drop : s.drop.Inv := { h with heldReset := fun hr => by simp [hheld] at hr }

theorem acceptCommand (he : s.engine.status.err = false) (w : Word) :
    (s.acceptCommand w).Inv :=
  { h with
    doneOrErr := fun _ => he
    busyFlags := fun _ => ⟨rfl, he, rfl⟩
    busyCur := fun _ => rfl
    idleCur := fun hb' => by cases hb'
    heldReset := fun hr => by simp [hheld] at hr }

theorem writeCtrl (v : Word) : (writeCtrl v s).Inv := by
  unfold Machine.writeCtrl
  split
  · exact State.inv_of_reset rfl rfl
  · exact { h with heldReset := fun hr => by simp [hheld] at hr }

/-- Clearing ERR clears ERRCODE with it, so that the two still agree (R26, R27). -/
theorem writeStatus (v : Word) : (writeStatus v s).Inv := by
  have hengine := writeStatus_engine v s
  have hresult : Machine.writeStatus v s = { s with engine := (Machine.writeStatus v s).engine } := rfl
  rw [hresult, hengine]
  exact
    { h with
      doneOrErr := fun hd => by
        have hdone : s.engine.status.done = true := Bool.and_elim_left hd
        show (s.engine.status.err && !v.getLsbD 2) = false
        rw [h.doneOrErr hdone, Bool.false_and]
      errcode := by
        show (if v.getLsbD 2 then 0x00 else s.engine.status.errcode) ≠ 0x00 ↔
          (s.engine.status.err && !v.getLsbD 2) = true
        cases v.getLsbD 2
        · simpa using h.errcode
        · simp
      errcodeKnown := by
        show (if v.getLsbD 2 then 0x00 else s.engine.status.errcode).toNat ≤ 0x07
        split
        · decide
        · exact h.errcodeKnown
      busyFlags := fun hb => by
        obtain ⟨hdone, herr, hmatch⟩ := h.busyFlags hb
        exact ⟨by simp [hdone], by simp [herr], hmatch⟩
      heldReset := fun hr => by simp [hheld] at hr }

theorem writeCmd (w : Word) : (writeCmd w s).Inv := by
  obtain ⟨_, herr, hw⟩ | ⟨_, hw⟩ := writeCmd_cases w s
  · rw [hw]; exact h.acceptCommand hheld herr w
  · rw [hw]; exact h.drop hheld

theorem writeReg (r : Reg) (v : Word) : (writeReg r v s).Inv := by
  cases r with
  | id | param => exact h
  | ctrl => exact h.writeCtrl hheld v
  | status => exact h.writeStatus hheld v
  | cmd => exact h.writeCmd hheld v
  | src | dst | len | aux =>
    simp only [Machine.writeReg]
    obtain ⟨hb, hw⟩ | ⟨_, hw⟩ := writeOperand_cases _ s <;> rw [hw]
    · exact
        { h with
          busyCur := fun hb' => by simp [hb] at hb'
          heldReset := fun hr => by simp [hheld] at hr }
    · exact h.drop hheld

/-- A scratch word lies inside scratch, since SCRATCH_BYTES is a whole number of words (R7, R61). -/
theorem writeScratch {a : Nat} (v : Word) (ha : a < s.params.scratchBytes) (h4 : a % 4 = 0) :
    (writeScratch a v s).Inv := by
  obtain ⟨_, hw⟩ | ⟨_, hw⟩ := writeScratch_cases a v s <;> rw [hw]
  · have hfits : a + (bytesOfWord v).length ≤ s.params.scratchBytes := by
      have hwords := s.params.scratchBytes_words
      simp only [bytesOfWord, List.length_cons, List.length_nil]
      omega
    exact { h.dataInv.memWrite hfits, h with heldReset := fun hr => by simp [hheld] at hr }
  · exact h.drop hheld

theorem writeWindow {off : Nat} (v : Word) (hoff : off < s.params.windowBytes) (h4 : off % 4 = 0) :
    (writeWindow off v s).Inv := by
  obtain ⟨r, _, hw⟩ | hw | ⟨hlo, hw⟩ := writeWindow_cases off v s <;> rw [hw]
  · exact h.writeReg hheld r v
  · exact h
  · unfold Params.windowBytes at hoff
    unfold scratchWindow at hlo ⊢
    exact h.writeScratch hheld v (by omega) (by omega)

end State.Inv

/-! ## Every step keeps the invariant -/

namespace State.Inv
variable {s : State} (h : s.Inv)
include h

theorem busAccess (a : Access) : (busAccess a s).Inv := by
  obtain ⟨r, hr⟩ | ⟨hheld, off, hoff, h4, hread | ⟨v, _, hwrite⟩⟩ := busAccess_cases a s
  · rw [hr]; exact h.respond r
  · rw [hread]; exact h.readWindow off
  · rw [hwrite]; exact (h.writeWindow hheld v hoff h4).respond .ack

theorem applyEvent (ev : Event) : (applyEvent ev s).Inv := by
  cases ev with
  | access a => exact h.busAccess a
  | idle => exact h
  | resetInput b =>
    cases b with
    | false => exact { h with heldReset := fun hr => by cases hr }
    | true => exact State.inv_of_reset rfl rfl

theorem hostStep : (hostStep s).Inv := by
  unfold Machine.hostStep
  split
  · exact h.tick s.tick.queue
  next ev rest _ => exact (h.tick rest).applyEvent ev

/-- A step is a completion or the host's, and both keep the invariant (R357). -/
theorem step {t : State} (ht : step s = .next t) : t.Inv := by
  cases hdue : s.due with
  | true => exact h.completion hdue ((step_of_due hdue).symm.trans ht)
  | false =>
    obtain rfl := Host.Outcome.next.inj ((step_of_not_due hdue).symm.trans ht)
    exact h.hostStep

end State.Inv

end Sys2Proof.Machine

open Sys2Proof Sys2Proof.Machine

/-- Settles O10, by the kind of step. -/
theorem stepKeepsInv : Obligations.StepKeepsInv := fun _ _ h ht => h.step ht

/-- Settles O11. -/
theorem resetHasInv : Obligations.ResetHasInv := fun _ => State.inv_of_reset rfl rfl

end

section
/-! Noninterference: completion times do not depend on secret data (70_reset_and_hazards.md R356), and no bus access
shows a key (10_state.md R33, 40_kdf.md R124). Each is a relation of two machines that every operation keeps. -/

namespace Sys2Proof.Machine

/-! ## Contexts that look alike -/

/-- Contexts of one shape are both NONE, or both ACTIVE with messages of one length (R356). -/
theorem Hctx.sameShape.cases {a b : Hctx} (h : a.sameShape b) :
    (a = .none ∧ b = .none) ∨ ∃ k m k' m', a = .active k m ∧ b = .active k' m' ∧ m.length = m'.length := by
  cases a with
  | none =>
    cases b with
    | none => exact .inl ⟨rfl, rfl⟩
    | active => exact h.elim
  | active k m =>
    cases b with
    | none => exact h.elim
    | active k' m' => exact .inr ⟨k, m, k', m', rfl, rfl, h⟩

theorem Hctx.sameShape.isActive_eq {a b : Hctx} (h : a.sameShape b) : a.isActive = b.isActive := by
  obtain ⟨rfl, rfl⟩ | ⟨k, m, k', m', rfl, rfl, _⟩ := h.cases <;> rfl

theorem Hctx.sameShape.msgLength_eq {a b : Hctx} (h : a.sameShape b) : a.msgLength = b.msgLength := by
  obtain ⟨rfl, rfl⟩ | ⟨k, m, k', m', rfl, rfl, hlen⟩ := h.cases
  · rfl
  · exact hlen

theorem Hctx.sameMessage.sameShape {a b : Hctx} (h : a.sameMessage b) : a.sameShape b := by
  cases a with
  | none =>
    cases b with
    | none => exact trivial
    | active => exact h.elim
  | active k m =>
    cases b with
    | none => exact h.elim
    | active k' m' => exact congrArg List.length h

/-! ## Two machines whose timing is alike -/

namespace TimingAlike
variable {s t : State} (h : TimingAlike s t)
include h

theorem due_eq : s.due = t.due := by simp only [State.due, h.busy, h.delay]

/-- A command makes the same checks with the same outcomes (R315). -/
theorem checks_eq (i : Instr) : checks i s = checks i t := by
  cases i <;> simp only [checks, h.params, h.cur, h.keyValid, h.ivValid, h.hctx.isActive_eq, h.hctx.msgLength_eq]

theorem drawLatency_eq (w : Word) : drawLatency s w = drawLatency t w := by
  simp only [drawLatency, h.latencyDraws, h.len, h.hctx.msgLength_eq]

/-! ### Completions -/

theorem setSlot (k : Fin 4) {x y : KeySlot} (hxy : x.valid = y.valid) :
    TimingAlike { s with engine := s.engine.setSlot k x } { t with engine := t.engine.setSlot k y } := by
  refine { h with keyValid := fun j => ?_ }
  simp only [getElem_setSlot]
  split
  · exact hxy
  · exact h.keyValid j

theorem setChain {c d : Chain} (hcd : c.valid = d.valid) :
    TimingAlike { s with engine := s.engine.setChain c } { t with engine := t.engine.setChain d } :=
  { h with ivValid := hcd }

theorem setHctx {c d : Hctx} (hcd : c.sameShape d) :
    TimingAlike { s with engine := s.engine.setHctx c } { t with engine := t.engine.setHctx d } :=
  { h with hctx := hcd }

theorem setMatch (b c : Bool) :
    TimingAlike { s with engine := s.engine.setMatch b } { t with engine := t.engine.setMatch c } := { h with }

theorem memWrite (a b : Nat) (v w : Bytes) :
    TimingAlike { s with engine := s.engine.memWrite a v } { t with engine := t.engine.memWrite b w } := { h with }

theorem setCbc (x y : CbcState) :
    TimingAlike { s with engine := s.engine.setCbc x } { t with engine := t.engine.setCbc y } := { h with }

/-- The effects of one command are alike: what it computes from the data goes only to data (R356). -/
theorem effect (i : Instr) :
    TimingAlike { s with engine := effect i s } { t with engine := effect i t } := by
  cases i with
  | nop => exact h
  | kdf k | keyload k | keyzero k => exact h.setSlot k rfl
  | keyzeroAll => exact { h with keyValid := fun j => by simp [Machine.effect] }
  | ivload => exact h.setChain rfl
  | ivstore | scrub => exact h.memWrite _ _ _ _
  | aesenc | aesdec => exact h.setCbc _ _
  | hmacinit k => exact h.setHctx (c := .active _ []) (d := .active _ []) rfl
  | hmacupd =>
    obtain ⟨hs, ht⟩ | ⟨k, m, k', m', hs, ht, hlen⟩ := h.hctx.cases <;> simp only [Machine.effect, hs, ht]
    · exact h
    · refine h.setHctx (show List.length _ = List.length _ from ?_)
      simp only [List.length_append, hlen, State.memRead, Memory.length_readBytes, State.lenCount, h.cur]
  | hmacfin =>
    obtain ⟨hs, ht⟩ | ⟨k, m, k', m', hs, ht, _⟩ := h.hctx.cases <;> simp only [Machine.effect, hs, ht]
    · exact h
    · exact (h.memWrite _ _ _ _).setHctx (c := .none) (d := .none) trivial
  | cmp => exact h.setMatch _ _
  | ctxclear =>
    exact (h.setChain (c := Chain.cleared) (d := Chain.cleared) rfl).setHctx (c := .none) (d := .none) trivial

theorem succeed : TimingAlike { s with engine := s.engine.succeed } { t with engine := t.engine.succeed } :=
  { h with busy := rfl, done := rfl, cur := rfl }

theorem cmdError (c : CmdError) :
    TimingAlike { s with engine := s.engine.cmdError c } { t with engine := t.engine.cmdError c } :=
  { h with busy := rfl, err := rfl, errcode := rfl, cur := rfl }

/-- One command completes alike on both: with the same error, or with success (R356). -/
theorem exec {i : Instr} {s' t' : State} (hs : exec i s = .next s') (ht : exec i t = .next t') : TimingAlike s' t' := by
  have hfirst : firstError i s = firstError i t := by simp only [firstError, h.checks_eq i]
  obtain ⟨hsp, rfl⟩ | ⟨c, hsf, rfl⟩ := exec_cases hs <;> obtain ⟨htp, rfl⟩ | ⟨d, htf, rfl⟩ := exec_cases ht
  · exact (h.effect i).succeed
  · simp [hfirst, htf] at hsp
  · simp [hfirst, htp] at hsf
  · obtain rfl : c = d := Option.some.inj (hsf.symm.trans (hfirst.trans htf))
    exact h.cmdError c

theorem completion {s' t' : State} (hs : completion s = .next s') (ht : completion t = .next t') :
    TimingAlike s' t' := by
  unfold Machine.completion at hs ht
  rw [State.fetch, h.cur] at hs
  rw [State.fetch] at ht
  split at hs
  next i hi =>
    rw [hi] at ht
    exact h.exec hs ht
  next r hr =>
    rw [hr] at ht
    cases hs; cases ht
    exact h.cmdError .illegalCmd

/-! ### The host's events -/

theorem respond (r q : Response) : TimingAlike (s.respond r) (t.respond q) := { h with }

theorem drop : TimingAlike s.drop t.drop := { h with ovr := rfl }

theorem resetEngine : TimingAlike s.resetEngine t.resetEngine :=
  { h with
    delay := rfl, ctrl := rfl, busy := rfl, done := rfl, err := rfl, ovr := rfl, errcode := rfl, cmd := rfl, src := rfl
    dst := rfl, len := rfl, aux := rfl, keyValid := fun _ => rfl, ivValid := rfl, hctx := trivial, cur := rfl }

theorem acceptCommand (w : Word) : TimingAlike (s.acceptCommand w) (t.acceptCommand w) :=
  { h with
    delay := h.drawLatency_eq w
    latencyDraws := congrArg (· + 1) h.latencyDraws
    busy := rfl, done := rfl, cmd := rfl
    cur := by simp only [State.acceptCommand_engine, Engine.accept_cur, h.src, h.dst, h.len, h.aux] }

theorem readWindow (off : Nat) : TimingAlike (readWindow off s) (readWindow off t) := by
  obtain ⟨r, hr⟩ := readWindow_eq off s
  obtain ⟨q, hq⟩ := readWindow_eq off t
  rw [hr, hq, h.busy, h.readDraws]
  exact { h with readDraws := rfl }

theorem writeStatus (v : Word) : TimingAlike (writeStatus v s) (writeStatus v t) := by
  simp only [Machine.writeStatus, clearDone_if, clearError_if, clearOvr_if]
  exact
    { h with
      done := by simp only [h.done]
      err := by simp only [h.err]
      errcode := by simp only [h.errcode]
      ovr := by simp only [h.ovr] }

theorem writeReg (r : Reg) (v : Word) : TimingAlike (writeReg r v s) (writeReg r v t) := by
  cases r with
  | id | param => exact h
  | ctrl =>
    simp only [Machine.writeReg, writeCtrl]
    split_ifs
    · exact h.resetEngine
    · exact { h with ctrl := rfl }
  | status => exact h.writeStatus v
  | cmd =>
    simp only [Machine.writeReg, writeCmd, h.busy, h.err]
    split_ifs
    · exact h.drop
    · exact h.acceptCommand v
  | src | dst | len | aux =>
    simp only [Machine.writeReg, writeOperand, h.busy]
    split_ifs
    · exact h.drop
    · exact { h with src := by simp only [h.src], dst := by simp only [h.dst], len := by simp only [h.len]
                     aux := by simp only [h.aux] }

theorem writeWindow (off : Nat) (v : Word) : TimingAlike (writeWindow off v s) (writeWindow off v t) := by
  simp only [Machine.writeWindow, writeScratch, h.busy]
  split_ifs
  · cases regAt off with
    | none => exact h
    | some r => exact h.writeReg r v
  · exact h.drop
  · exact { h with }

theorem inWindow_eq (addr : Nat) : s.inWindow addr = t.inWindow addr := by simp only [State.inWindow, h.params]

theorem busAccess (a : Access) : TimingAlike (busAccess a s) (busAccess a t) := by
  simp only [Machine.busAccess, h.inWindow_eq, h.resetHeld, h.params]
  split
  next => exact h.respond _ _
  next =>
    split
    next => exact h.respond _ _
    next =>
      split
      next => exact h.respond _ _
      next =>
        cases a with
        | read w addr => exact h.readWindow _
        | write w addr v => exact (h.writeWindow _ v).respond _ _

theorem applyEvent (ev : Event) : TimingAlike (applyEvent ev s) (applyEvent ev t) := by
  cases ev with
  | access a => exact h.busAccess a
  | idle => exact h
  | resetInput b =>
    cases b with
    | false => exact { h with resetHeld := rfl }
    | true => exact { h.resetEngine with resetHeld := rfl }

theorem tick : TimingAlike s.tick t.tick := by
  simp only [State.tick, h.busy]
  split_ifs
  · exact { h with delay := congrArg (· - 1) h.delay }
  · exact h

theorem hostStep : TimingAlike (hostStep s) (hostStep t) := by
  simp only [Machine.hostStep, h.queue]
  cases t.queue with
  | nil => exact h.tick
  | cons ev rest =>
    have hrest : TimingAlike { s.tick with queue := rest } { t.tick with queue := rest } := { h.tick with queue := rfl }
    exact hrest.applyEvent ev

/-- Both machines complete a command in this step, or neither does; either way they stay alike (R356). -/
theorem step {s' t' : State} (hs : step s = .next s') (ht : step t = .next t') : TimingAlike s' t' := by
  have hdue := h.due_eq
  cases htd : t.due with
  | true => exact h.completion ((step_of_due (hdue.trans htd)).symm.trans hs) ((step_of_due htd).symm.trans ht)
  | false =>
    obtain rfl := Host.Outcome.next.inj ((step_of_not_due (hdue.trans htd)).symm.trans hs)
    obtain rfl := Host.Outcome.next.inj ((step_of_not_due htd).symm.trans ht)
    exact h.hostStep

end TimingAlike

/-! ## Two machines that differ in keys only -/

/-- STATUS shows which slots are valid and whether there is a context, not their keys (R26). -/
theorem statusWord_congr {e f : Engine} (hks : ∀ k : Fin 4, e.ks[k].valid = f.ks[k].valid)
    (hstatus : e.status = f.status) (hchain : e.chain = f.chain) (hctx : e.hctx.isActive = f.hctx.isActive) :
    statusWord e = statusWord f := by
  have hbits : keyValidBits e.ks = keyValidBits f.ks := by
    have h0 : e.ks[0].valid = f.ks[0].valid := hks 0
    have h1 : e.ks[1].valid = f.ks[1].valid := hks 1
    have h2 : e.ks[2].valid = f.ks[2].valid := hks 2
    have h3 : e.ks[3].valid = f.ks[3].valid := hks 3
    simp only [keyValidBits, h0, h1, h2, h3]
  simp only [statusWord, hbits, hstatus, hchain, hctx]

namespace KeysAlike
variable {s t : State} (h : KeysAlike s t)
include h

/-- No register shows a key (R22 to R30). -/
theorem readReg_eq (r : Reg) : readReg s.params s.engine r = readReg t.params t.engine r := by
  cases r with
  | id => rfl
  | param => simp only [readReg, h.params]
  | ctrl => simp only [readReg, h.ctrl]
  | status => exact statusWord_congr h.keyValid h.status h.chain h.hctx.sameShape.isActive_eq
  | cmd => exact h.cmd
  | src => exact h.src
  | dst => exact h.dst
  | len => exact h.len
  | aux => exact h.aux

theorem busy_eq : s.engine.status.busy = t.engine.status.busy := congrArg Status.busy h.status

theorem drawLatency_eq (w : Word) : drawLatency s w = drawLatency t w := by
  simp only [drawLatency, h.latencyDraws, h.len, h.hctx.sameShape.msgLength_eq]

theorem inWindow_eq (addr : Nat) : s.inWindow addr = t.inWindow addr := by simp only [State.inWindow, h.params]

theorem respond (r : Response) : KeysAlike (s.respond r) (t.respond r) := { h with response := rfl }

theorem drop : KeysAlike s.drop t.drop := { h with status := by simp only [State.drop, h.status] }

theorem resetEngine : KeysAlike s.resetEngine t.resetEngine :=
  { h with
    delay := rfl, ctrl := rfl, status := rfl, cmd := rfl, src := rfl, dst := rfl, len := rfl, aux := rfl
    keyValid := fun _ => rfl, chain := rfl, hctx := trivial, scr := rfl, cur := rfl }

theorem acceptCommand (w : Word) : KeysAlike (s.acceptCommand w) (t.acceptCommand w) :=
  { h with
    delay := h.drawLatency_eq w
    latencyDraws := congrArg (· + 1) h.latencyDraws
    cmd := rfl
    status := by simp only [State.acceptCommand_engine, Engine.accept, h.status]
    cur := by simp only [State.acceptCommand_engine, Engine.accept_cur, h.src, h.dst, h.len, h.aux] }

/-- A read answers alike: the word of a register, the word of scratch, or the next free value (R33, R66). -/
theorem readWindow (off : Nat) : KeysAlike (readWindow off s) (readWindow off t) := by
  simp only [Machine.readWindow, h.readReg_eq, h.status, h.scr, h.readDraws]
  split
  next =>
    cases regAt off with
    | none => exact h.respond _
    | some r => exact h.respond _
  next =>
    split
    next => exact { h.respond (.data (Config.freeScratchRead t.readDraws)) with readDraws := rfl }
    next => exact h.respond _

theorem writeReg (r : Reg) (v : Word) : KeysAlike (writeReg r v s) (writeReg r v t) := by
  cases r with
  | id | param => exact h
  | ctrl =>
    simp only [Machine.writeReg, writeCtrl]
    split_ifs
    · exact h.resetEngine
    · exact { h with ctrl := rfl }
  | status =>
    simp only [Machine.writeReg, writeStatus, clearDone_if, clearError_if, clearOvr_if]
    exact { h with status := by simp only [h.status] }
  | cmd =>
    simp only [Machine.writeReg, writeCmd, h.status]
    split_ifs
    · exact h.drop
    · exact h.acceptCommand v
  | src | dst | len | aux =>
    simp only [Machine.writeReg, writeOperand, h.busy_eq]
    split_ifs
    · exact h.drop
    · exact { h with src := by simp only [h.src], dst := by simp only [h.dst], len := by simp only [h.len]
                     aux := by simp only [h.aux] }

theorem writeWindow (off : Nat) (v : Word) : KeysAlike (writeWindow off v s) (writeWindow off v t) := by
  simp only [Machine.writeWindow, writeScratch, h.busy_eq]
  split_ifs
  · cases regAt off with
    | none => exact h
    | some r => exact h.writeReg r v
  · exact h.drop
  · exact { h with scr := congrArg (Memory.writeBytes · _ _) h.scr }

/-- A bus access keeps two machines alike, the answer included (R33, R124). -/
theorem busAccess (a : Access) : KeysAlike (busAccess a s) (busAccess a t) := by
  simp only [Machine.busAccess, h.inWindow_eq, h.resetHeld, h.params]
  split
  next => exact h.respond _
  next =>
    split
    next => exact h.respond _
    next =>
      split
      next => exact h.respond _
      next =>
        cases a with
        | read w addr => exact h.readWindow _
        | write w addr v => exact (h.writeWindow _ v).respond _

end KeysAlike

end Sys2Proof.Machine

open Sys2Proof Sys2Proof.Machine

/-- Settles O52. -/
theorem timingIsDataIndependent : Obligations.TimingIsDataIndependent := fun _ _ _ _ h hs ht => h.step hs ht

/-- Settles O53. -/
theorem keysHaveNoBusAddress : Obligations.KeysHaveNoBusAddress := fun _ _ a h =>
  ⟨(h.busAccess a).response, h.busAccess a⟩

end

section
/-! AESENC and AESDEC (42_cipher.md) as CBC (00_scope.md R16). Both commands and both modes are one loop and one
recursion over blocks, with another function of the block and the chaining value. -/

namespace Sys2Proof.Machine

/-! ## One loop and one recursion for both directions -/

/-- What a mode makes of a block and the chaining value: the block it writes and the next chaining value. -/
abbrev BlockFn := Block → Block → Block × Block

/-- Encryption writes the ciphertext block and chains it (R173). -/
def encFn (key : Key) : BlockFn := fun p v => (aes256Enc key (xorVec p v), aes256Enc key (xorVec p v))

/-- Decryption writes the plaintext block and chains the ciphertext block it read (R174). -/
def decFn (key : Key) : BlockFn := fun c v => (xorVec (aes256Dec key c) v, c)

/-- One block of the loop: `encBlock` and `decBlock` by `encBlock_eq` and `decBlock_eq`. -/
def blockStep (f : BlockFn) (src dst : Nat) (x : CbcState) : CbcState :=
  ⟨x.scr.writeBytes dst (f (x.scr.readVec src 16) x.chain).1.toList, (f (x.scr.readVec src 16) x.chain).2⟩

/-- The loop over `n` blocks: `encLoop` and `decLoop` by `encLoop_eq` and `decLoop_eq`. -/
def blockLoop (f : BlockFn) : Nat → Nat → Nat → CbcState → CbcState
  | _, _, 0, x => x
  | src, dst, n + 1, x => blockLoop f (src + 16) (dst + 16) n (blockStep f src dst x)

/-- The blocks a mode makes of a list of blocks: `cbcEnc` and `cbcDec` by `cbcEnc_eq` and `cbcDec_eq`. -/
def stream (f : BlockFn) : Block → List Block → List Block
  | _, [] => []
  | v, p :: ps => (f p v).1 :: stream f (f p v).2 ps

/-- The chaining value after a list of blocks. -/
def streamChain (f : BlockFn) : Block → List Block → Block
  | v, [] => v
  | v, p :: ps => streamChain f (f p v).2 ps

theorem encBlock_eq (key : Key) (src dst : Nat) (x : CbcState) :
    encBlock key src dst x = blockStep (encFn key) src dst x := rfl

theorem decBlock_eq (key : Key) (src dst : Nat) (x : CbcState) :
    decBlock key src dst x = blockStep (decFn key) src dst x := rfl

theorem encLoop_eq (key : Key) (src dst n : Nat) (x : CbcState) :
    encLoop key src dst n x = blockLoop (encFn key) src dst n x := by
  induction n generalizing src dst x with
  | zero => rfl
  | succ n ih => exact ih _ _ _

theorem decLoop_eq (key : Key) (src dst n : Nat) (x : CbcState) :
    decLoop key src dst n x = blockLoop (decFn key) src dst n x := by
  induction n generalizing src dst x with
  | zero => rfl
  | succ n ih => exact ih _ _ _

theorem cbcEnc_eq (key : Key) (iv : Block) (p : List Block) : cbcEnc key iv p = stream (encFn key) iv p := by
  induction p generalizing iv with
  | nil => rfl
  | cons b p ih => exact congrArg (_ :: ·) (ih _)

theorem cbcDec_eq (key : Key) (iv : Block) (c : List Block) : cbcDec key iv c = stream (decFn key) iv c := by
  induction c generalizing iv with
  | nil => rfl
  | cons b c ih => exact congrArg (_ :: ·) (ih _)

/-- Encryption chains the last block it wrote (R16). -/
theorem streamChain_enc (key : Key) (iv : Block) (p : List Block) :
    streamChain (encFn key) iv p = (cbcEnc key iv p).getLastD iv := by
  induction p generalizing iv with
  | nil => rfl
  | cons b p ih => rw [streamChain, ih, cbcEnc, List.getLastD_cons]; rfl

/-- Decryption chains the last block it read (R16). -/
theorem streamChain_dec (key : Key) (iv : Block) (c : List Block) : streamChain (decFn key) iv c = c.getLastD iv := by
  induction c generalizing iv with
  | nil => rfl
  | cons b c ih => rw [streamChain, ih, List.getLastD_cons]; rfl

/-- A stream may be cut anywhere, if the second part starts from the chaining value of the first (R16, R176). -/
theorem stream_append (f : BlockFn) (v : Block) (p q : List Block) :
    stream f v (p ++ q) = stream f v p ++ stream f (streamChain f v p) q := by
  induction p generalizing v with
  | nil => rfl
  | cons b p ih => exact congrArg (_ :: ·) (ih _)

theorem cbcEnc_append (key : Key) (iv : Block) (p q : List Block) :
    cbcEnc key iv (p ++ q) = cbcEnc key iv p ++ cbcEnc key ((cbcEnc key iv p).getLastD iv) q := by
  rw [← streamChain_enc]
  simp only [cbcEnc_eq, stream_append]

theorem cbcDec_append (key : Key) (iv : Block) (p q : List Block) :
    cbcDec key iv (p ++ q) = cbcDec key iv p ++ cbcDec key (p.getLastD iv) q := by
  rw [← streamChain_dec key]
  simp only [cbcDec_eq, stream_append]

/-- The loop as a fold over the block numbers (R175). -/
theorem blockLoop_eq_foldl (f : BlockFn) (src dst n : Nat) (x : CbcState) :
    blockLoop f src dst n x =
      (List.range n).foldl (fun x i => blockStep f (src + 16 * i) (dst + 16 * i) x) x := by
  induction n generalizing src dst x with
  | zero => rfl
  | succ n ih =>
    have hnext (a i : Nat) : a + 16 * (i + 1) = a + 16 + 16 * i := by omega
    rw [blockLoop, ih, List.range_succ_eq_map, List.foldl_cons, List.foldl_map]
    simp only [Nat.succ_eq_add_one, hnext, Nat.mul_zero, Nat.add_zero]

/-! ## Blocks in scratch -/

/-- The `n` consecutive blocks that stand in `m` from offset `a`. -/
def blocksAt (m : Memory) (a n : Nat) : List Block := (List.range n).map fun i => m.readVec (a + 16 * i) 16

theorem blocksAt_succ (m : Memory) (a n : Nat) :
    blocksAt m a (n + 1) = m.readVec a 16 :: blocksAt m (a + 16) n := by
  have hnext (i : Nat) : a + 16 * (i + 1) = a + 16 + 16 * i := by omega
  simp only [blocksAt, List.range_succ_eq_map, List.map_cons, List.map_map, Function.comp_def, Nat.succ_eq_add_one,
    hnext, Nat.mul_zero, Nat.add_zero]

theorem readVec_congr {m m' : Memory} {a n : Nat} (h : ∀ i, i < n → m.read (a + i) = m'.read (a + i)) :
    m.readVec a n = m'.readVec a n := by
  apply Vector.ext
  intro i hi
  simp only [Memory.getElem_readVec, h i hi]

/-- Memories that agree on a range hold the same blocks there. -/
theorem blocksAt_congr {m m' : Memory} {a n : Nat} (h : ∀ i, i < 16 * n → m.read (a + i) = m'.read (a + i)) :
    blocksAt m a n = blocksAt m' a n := by
  refine List.map_congr_left fun b hb => readVec_congr fun i hi => ?_
  have hb := List.mem_range.1 hb
  rw [Nat.add_assoc]
  exact h _ (by omega)

/-- A block reads back as it was written (R10). -/
theorem readVec_writeBytes_self {m : Memory} (h : m.wf = true) (a : Nat) (b : Block) :
    (m.writeBytes a b.toList).readVec a 16 = b := by
  apply Vector.ext
  intro i hi
  rw [Memory.getElem_readVec, Memory.read_writeBytes h, if_pos ⟨by omega, by simpa using hi⟩, Nat.add_sub_cancel_left]
  simp [hi]

/-! ## The loop is the stream -/

section
variable {f : BlockFn} {x : CbcState} (hwf : x.scr.wf = true)
include hwf

theorem blockStep_wf (src dst : Nat) : (blockStep f src dst x).scr.wf = true := Memory.wf_writeBytes hwf _ _

/-- One block changes no byte outside its destination. -/
theorem read_blockStep {src dst a : Nat} (ha : ¬(dst ≤ a ∧ a < dst + 16)) :
    (blockStep f src dst x).scr.read a = x.scr.read a := by
  rw [blockStep, Memory.read_writeBytes hwf, if_neg (by simpa using ha)]

/-- The loop changes no byte outside its destination range. -/
theorem read_blockLoop {src dst n a : Nat} (ha : ¬(dst ≤ a ∧ a < dst + 16 * n)) :
    (blockLoop f src dst n x).scr.read a = x.scr.read a := by
  induction n generalizing src dst x with
  | zero => rfl
  | succ n ih => rw [blockLoop, ih (blockStep_wf hwf _ _) (by omega), read_blockStep hwf (by omega)]

/-- Unless the destination starts inside the source after its start, no block is overwritten before it is read: the
loop leaves the stream of the blocks that stood in the source, and its chaining value (R175). -/
theorem blockLoop_stream {src dst n : Nat} (hover : dst ≤ src ∨ src + 16 * n ≤ dst) :
    blocksAt (blockLoop f src dst n x).scr dst n = stream f x.chain (blocksAt x.scr src n) ∧
      (blockLoop f src dst n x).chain = streamChain f x.chain (blocksAt x.scr src n) := by
  induction n generalizing src dst x with
  | zero => exact ⟨rfl, rfl⟩
  | succ n ih =>
    have hwf' : (blockStep f src dst x).scr.wf = true := blockStep_wf hwf src dst
    have hrest : blocksAt (blockStep f src dst x).scr (src + 16) n = blocksAt x.scr (src + 16) n :=
      blocksAt_congr fun i hi => read_blockStep hwf (by omega)
    have hfirst : (blockLoop f (src + 16) (dst + 16) n (blockStep f src dst x)).scr.readVec dst 16 =
        (f (x.scr.readVec src 16) x.chain).1 :=
      calc _ = (blockStep f src dst x).scr.readVec dst 16 :=
            readVec_congr fun i hi => read_blockLoop hwf' (by omega)
        _ = _ := readVec_writeBytes_self hwf dst _
    obtain ⟨hblocks, hchain⟩ := ih hwf' (src := src + 16) (dst := dst + 16) (by omega)
    rw [hrest] at hblocks hchain
    rw [blockLoop, blocksAt_succ, blocksAt_succ, hfirst, hblocks, hchain]
    exact ⟨rfl, rfl⟩

end

/-! ## The two commands -/

/-- The checks of AESENC and of AESDEC, as arithmetic (R173, R174). -/
theorem aes_checks_pass {k : Fin 4} {s : State}
    (hsrc : s.engine.cur.src.toNat + s.engine.cur.len.toNat ≤ s.params.scratchBytes)
    (hdst : s.engine.cur.dst.toNat + s.engine.cur.len.toNat ≤ s.params.scratchBytes)
    (hlen : s.engine.cur.len.toNat % 16 = 0) (hkey : s.engine.ks[k].valid = true)
    (hchain : s.engine.chain.valid = true) :
    (∀ x ∈ checks (.aesenc k) s, x.2 = true) ∧ ∀ x ∈ checks (.aesdec k) s, x.2 = true := by
  have hks : s.engine.ks[k.val].valid = true := hkey
  simp [checks, hsrc, hdst, hlen, hks, hchain]

/-- What a command that runs the loop leaves, for every overlap: the fold over the blocks, which writes the
destination range only (R175). -/
theorem blockLoop_result {f : BlockFn} {s t : State} (hwf : s.engine.scr.wf = true)
    (hlen : s.engine.cur.len.toNat % 16 = 0) (hchain : s.engine.chain.valid = true)
    (ht : t.engine = (s.engine.setCbc (blockLoop f s.srcOff s.dstOff (s.lenCount / 16) s.cbcStart)).succeed) :
    (let r := (List.range (s.engine.cur.len.toNat / 16)).foldl
        (fun x i => blockStep f (s.engine.cur.src.toNat + 16 * i) (s.engine.cur.dst.toNat + 16 * i) x)
        ⟨s.engine.scr, s.engine.chain.value⟩
     t.engine.scr = r.scr ∧ t.engine.chain = ⟨r.chain, true⟩) ∧
    SameScratchOutside s t s.engine.cur.dst.toNat s.engine.cur.len.toNat ∧
    t.engine.status.matched = s.engine.status.matched ∧ t.engine.ks = s.engine.ks ∧
    t.engine.hctx = s.engine.hctx := by
  have hfold := blockLoop_eq_foldl f s.srcOff s.dstOff (s.lenCount / 16) s.cbcStart
  refine ⟨⟨?scr, ?chain⟩, fun a ha => ?outside, ?_, ?_, ?_⟩
  case scr => rw [ht, hfold]; rfl
  case chain => rw [ht, hfold, Engine.succeed_chain, Engine.setCbc_chain, hchain]; rfl
  case outside =>
    rw [ht, Engine.succeed_scr, Engine.setCbc_scr, read_blockLoop (x := s.cbcStart) hwf]
    · rfl
    · simp only [State.dstOff, State.lenCount]
      omega
  all_goals rw [ht]; rfl

section
variable {k : Fin 4} {s : State} (h : AesReady k s)
include h

theorem AesReady.checks_pass :
    (∀ x ∈ checks (.aesenc k) s, x.2 = true) ∧ ∀ x ∈ checks (.aesdec k) s, x.2 = true :=
  aes_checks_pass h.srcRange h.dstRange h.wholeBlocks h.keyValid h.chainValid

/-- A ready command leaves the stream of its source, whatever the mode (R175). -/
theorem AesReady.loop_stream (f : BlockFn) :
    destBlocks s (blockLoop f s.srcOff s.dstOff (s.lenCount / 16) s.cbcStart).scr =
        stream f s.engine.chain.value (sourceBlocks s s.engine.scr) ∧
      (blockLoop f s.srcOff s.dstOff (s.lenCount / 16) s.cbcStart).chain =
        streamChain f s.engine.chain.value (sourceBlocks s s.engine.scr) := by
  refine blockLoop_stream (x := s.cbcStart) h.scrWf ?_
  have hover := h.noOverlap
  have hlen := h.wholeBlocks
  simp only [State.dstOff, State.srcOff, State.lenCount]
  omega

/-- AESENC writes `cbc_enc` of its source and chains the last ciphertext block (R16, R173, R175). -/
theorem AesReady.aesenc : ∃ t, exec (.aesenc k) s = .next t ∧
    destBlocks s t.engine.scr = cbcEnc s.engine.ks[k].value s.engine.chain.value (sourceBlocks s s.engine.scr) ∧
    t.engine.chain.value =
      (cbcEnc s.engine.ks[k].value s.engine.chain.value (sourceBlocks s s.engine.scr)).getLastD
        s.engine.chain.value := by
  obtain ⟨t, hexec, _, ht⟩ := exec_succeeds h.checks_pass.1
  obtain ⟨hblocks, hchain⟩ := h.loop_stream (encFn (s.keyValue k))
  rw [← encLoop_eq] at hblocks hchain
  rw [← cbcEnc_eq] at hblocks
  rw [streamChain_enc] at hchain
  exact ⟨t, hexec, by rw [ht]; exact hblocks, by rw [ht]; exact hchain⟩

/-- AESDEC writes `cbc_dec` of its source and chains the last ciphertext block (R16, R174, R175). -/
theorem AesReady.aesdec : ∃ t, exec (.aesdec k) s = .next t ∧
    destBlocks s t.engine.scr = cbcDec s.engine.ks[k].value s.engine.chain.value (sourceBlocks s s.engine.scr) ∧
    t.engine.chain.value = (sourceBlocks s s.engine.scr).getLastD s.engine.chain.value := by
  obtain ⟨t, hexec, _, ht⟩ := exec_succeeds h.checks_pass.2
  obtain ⟨hblocks, hchain⟩ := h.loop_stream (decFn (s.keyValue k))
  rw [← decLoop_eq] at hblocks hchain
  rw [← cbcDec_eq] at hblocks
  rw [streamChain_dec] at hchain
  exact ⟨t, hexec, by rw [ht]; exact hblocks, by rw [ht]; exact hchain⟩

end

end Sys2Proof.Machine

open Sys2Proof Sys2Proof.Machine

/-- Settles O18: the effect is the loop with the encryption of a block. -/
theorem aesencRunsBlockLoop : Obligations.AesencRunsBlockLoop := by
  intro k s hwf hsrc hdst hlen hkey hchain
  obtain ⟨t, hexec, hsucc, ht⟩ := exec_succeeds (aes_checks_pass hsrc hdst hlen hkey hchain).1
  rw [effect, encLoop_eq] at ht
  refine ⟨t, hexec, hsucc, ?_⟩
  simp only [encBlock_eq]
  exact blockLoop_result hwf hlen hchain ht

/-- Settles O19: the effect is the loop with the decryption of a block. -/
theorem aesdecRunsBlockLoop : Obligations.AesdecRunsBlockLoop := by
  intro k s hwf hsrc hdst hlen hkey hchain
  obtain ⟨t, hexec, hsucc, ht⟩ := exec_succeeds (aes_checks_pass hsrc hdst hlen hkey hchain).2
  rw [effect, decLoop_eq] at ht
  refine ⟨t, hexec, hsucc, ?_⟩
  simp only [decBlock_eq]
  exact blockLoop_result hwf hlen hchain ht

/-- Settles O20. -/
theorem aesencIsCbcEncryption : Obligations.AesencIsCbcEncryption :=
  fun _ _ hwf hsrc hdst hlen hkey hchain hover => AesReady.aesenc ⟨hwf, hsrc, hdst, hlen, hkey, hchain, hover⟩

/-- Settles O21. -/
theorem aesdecIsCbcDecryption : Obligations.AesdecIsCbcDecryption :=
  fun _ _ hwf hsrc hdst hlen hkey hchain hover => AesReady.aesdec ⟨hwf, hsrc, hdst, hlen, hkey, hchain, hover⟩

/-- Settles O35: each command writes the stream of its source, and the second starts from the chaining value the
first left, which is where a cut stream goes on. -/
theorem cbcContinuesAcrossCommands : Obligations.CbcContinuesAcrossCommands := by
  refine ⟨?enc, ?dec, fun key iv p q => ⟨cbcEnc_append key iv p q, cbcDec_append key iv p q⟩⟩
  case enc =>
    intro k j s s' t hs hexec ht hkey hchain
    obtain ⟨u, hu, hblocks, hlast⟩ := hs.aesenc
    obtain rfl := Host.Outcome.next.inj (hu.symm.trans hexec)
    obtain ⟨t', ht', hblocks', _⟩ := ht.aesenc
    exact ⟨t', ht', by rw [cbcEnc_append, hblocks, hblocks', hkey, hchain, hlast]⟩
  case dec =>
    intro k j s s' t hs hexec ht hkey hchain
    obtain ⟨u, hu, hblocks, hlast⟩ := hs.aesdec
    obtain rfl := Host.Outcome.next.inj (hu.symm.trans hexec)
    obtain ⟨t', ht', hblocks', _⟩ := ht.aesdec
    exact ⟨t', ht', by rw [cbcDec_append, hblocks, hblocks', hkey, hchain, hlast]⟩

end

section
/-! The algorithms of 00_scope.md section 6: AES-256 decryption inverts encryption (R13), SHA-256's padding is the
least (R12), and HMAC-SHA256 is nested SHA-256 (R14). -/

namespace Sys2Proof.Machine

/-! ## AES-256 -/

theorem cell_mixWith (m : List (List Byte)) (s : Block) {r c : Nat} (hr : r < 4) (hc : c < 4) :
    cell (mixWith m s) r c =
      gmul (matrixEntry m r 0) (cell s 0 c) ^^^ gmul (matrixEntry m r 1) (cell s 1 c) ^^^
        gmul (matrixEntry m r 2) (cell s 2 c) ^^^ gmul (matrixEntry m r 3) (cell s 3 c) :=
  cell_ofCells _ hr hc

/-- A cell of `IM (M a)` is the sum of the products of row `r` with the columns, over the column's cells (R13). -/
theorem cell_invMixColumns_mixColumns (s : Block) {r c : Nat} (hr : r < 4) (hc : c < 4) :
    cell (invMixColumns (mixColumns s)) r c =
      mixProduct r 0 (cell s 0 c) ^^^ mixProduct r 1 (cell s 1 c) ^^^ mixProduct r 2 (cell s 2 c) ^^^
        mixProduct r 3 (cell s 3 c) := by
  simp only [invMixColumns, mixColumns, cell_mixWith _ _ hr hc, cell_mixWith _ _ (show 0 < 4 by decide) hc,
    cell_mixWith _ _ (show 1 < 4 by decide) hc, cell_mixWith _ _ (show 2 < 4 by decide) hc,
    cell_mixWith _ _ (show 3 < 4 by decide) hc, gmul_xor, mixProduct]
  ac_rfl

/-- `IM` undoes `M` in every column (R13). -/
theorem invMixColumns_mixColumns (s : Block) : invMixColumns (mixColumns s) = s := by
  rw [← ofCells_cell (invMixColumns (mixColumns s)), ← ofCells_cell s]
  refine ofCells_congr fun r c hr hc => ?_
  rw [ofCells_cell, cell_invMixColumns_mixColumns s hr hc]
  have hproduct (k : Fin 4) : mixProduct r k (cell s k c) = if (⟨r, hr⟩ : Fin 4) = k then cell s k c else 0 :=
    mixProduct_eq ⟨r, hr⟩ k _
  have h0 := hproduct 0
  have h1 := hproduct 1
  have h2 := hproduct 2
  have h3 := hproduct 3
  interval_cases r <;> simp_all

/-- A round of decryption undoes the last layers of a round of encryption: it takes the state after ShiftRows of the
next round to that of its own round (R13). -/
theorem decRound_encRound (ws : List KeyWord) (s : Block) (r : Nat) :
    decRound ws (shiftRows (subBytes (encRound ws s r))) r = shiftRows (subBytes s) := by
  rw [decRound, invShiftRows_shiftRows, invSubBytes_subBytes, encRound, addRoundKey, addRoundKey, xorVec_xorVec,
    invMixColumns_mixColumns]

/-- Any run of rounds, undone in the reverse order (R13). -/
theorem foldl_decRound_encRound (ws : List KeyWord) (rs : List Nat) (s : Block) :
    rs.reverse.foldl (decRound ws) (shiftRows (subBytes (rs.foldl (encRound ws) s))) = shiftRows (subBytes s) := by
  induction rs generalizing s with
  | nil => rfl
  | cons r rs ih =>
    simp only [List.reverse_cons, List.foldl_append, List.foldl_cons, List.foldl_nil, ih, decRound_encRound]

/-- Decryption undoes encryption: the last round, the middle rounds in reverse, the first round key (R13). -/
theorem aes256Dec_aes256Enc (key : Key) (b : Block) : aes256Dec key (aes256Enc key b) = b := by
  simp only [aes256Dec, aes256Enc, addRoundKey, xorVec_xorVec]
  rw [foldl_decRound_encRound, invShiftRows_shiftRows, invSubBytes_subBytes, xorVec_xorVec]

/-! ## SHA-256 -/

/-- The zero bytes of the padding fill the last block (R12). -/
theorem shaPadZeros_fills (n : Nat) : (n + 1 + shaPadZeros n + 8) % 64 = 0 := by
  unfold shaPadZeros
  omega

/-- No fewer zero bytes do (R12). -/
theorem shaPadZeros_le (n k : Nat) (h : (n + 1 + k + 8) % 64 = 0) : shaPadZeros n ≤ k := by
  unfold shaPadZeros
  omega

/-- The padding is the byte 0x80, the zero bytes and the 8 bytes of the length (R12). -/
theorem length_shaPad (m : Bytes) : (shaPad m).length = m.length + 1 + shaPadZeros m.length + 8 := by
  simp only [shaPad, be64, List.length_append, List.length_cons, List.length_nil, length_zeros, length_beBytes]

/-- R355's count is the number of blocks of the padded message. -/
theorem length_shaPad_eq_blocks (m : Bytes) : (shaPad m).length = 64 * shaBlockCount m.length := by
  rw [length_shaPad, shaPadZeros, shaBlockCount]
  omega

/-! ## HMAC-SHA256 -/

/-- The xor with a repeated byte is bytewise (R8). -/
theorem xorBytes_rep (s : Bytes) (b : Byte) : xorBytes s (rep s.length b) = s.map (· ^^^ b) := by
  apply List.ext_getElem
  · simp
  · intro i h1 h2
    simp [xorBytes, rep]

/-- The padded key is a block of 64 bytes (R14). -/
theorem length_hmacBlockKey (key : Key) : (hmacBlockKey key).length = 64 := by simp [hmacBlockKey]

theorem xorBytes_hmacBlockKey (key : Key) (b : Byte) :
    xorBytes (hmacBlockKey key) (rep 64 b) = (hmacBlockKey key).map (· ^^^ b) := by
  rw [← length_hmacBlockKey key, xorBytes_rep]

end Sys2Proof.Machine

open Sys2Proof Sys2Proof.Machine

/-- Settles O34. -/
theorem aesDecryptsItsEncryption : Obligations.AesDecryptsItsEncryption := aes256Dec_aes256Enc

/-- Settles O31. -/
theorem shaPaddingIsLeast : Obligations.ShaPaddingIsLeast := fun m =>
  ⟨shaPadZeros_fills m.length, shaPadZeros_le m.length, length_shaPad m, length_shaPad_eq_blocks m, length_sha256 m⟩

/-- Settles O33. -/
theorem hmacIsNestedSha256 : Obligations.HmacIsNestedSha256 := by
  intro key m
  rw [hmacSha256, xorBytes_hmacBlockKey, xorBytes_hmacBlockKey]
  rfl

end

section
/-! The host's side of the engine: STATUS and CMD (10_state.md section 3), the scratch window while `BUSY = 1`
(20_memory.md section 3), accesses the engine does not take (R61, R340), resets (R341, R343), and the decoder's header
check (46_decoder.md R273). -/

namespace Sys2Proof.Machine

/-! ## STATUS -/

theorem getLsbD_bit_zero (b : Bool) : (bit b).getLsbD 0 = b := by cases b <;> rfl

/-- A field of one bit is bit 0 of what it ends, and shifts the rest up by one. -/
theorem getLsbD_append_bit_zero {n : Nat} (x : BitVec n) (b : Bool) : (x ++ bit b).getLsbD 0 = b := by
  rw [BitVec.getLsbD_append, if_pos Nat.zero_lt_one]
  exact getLsbD_bit_zero b

theorem getLsbD_append_bit_succ {n : Nat} (x : BitVec n) (b : Bool) (i : Nat) :
    (x ++ bit b).getLsbD (i + 1) = x.getLsbD i := by
  rw [BitVec.getLsbD_append, if_neg (by omega), Nat.add_sub_cancel]

/-- KEY_VALID shows slot `k` at bit `k` (R26). -/
theorem keyValidBits_getLsbD (ks : Vector KeySlot 4) (k : Fin 4) : (keyValidBits ks).getLsbD k = ks[k].valid := by
  unfold keyValidBits
  fin_cases k
  · exact getLsbD_append_bit_zero _ _
  · exact (getLsbD_append_bit_succ _ _ 0).trans (getLsbD_append_bit_zero _ _)
  · simp only [getLsbD_append_bit_succ, getLsbD_append_bit_zero]
    rfl
  · simp only [getLsbD_append_bit_succ, getLsbD_bit_zero]
    rfl

/-- HMAC_ACTIVE is 1 exactly when HCTX is not NONE (R26, R35). -/
theorem Hctx.isActive_iff (h : Hctx) : h.isActive = true ↔ h ≠ .none := by
  cases h <;> simp [Hctx.isActive]

/-- STATUS from bit 0 to bit 7: the flags and views, one bit each, and a reserved bit (R26). -/
theorem statusWord_flags (e : Engine) :
    (statusWord e).getLsbD 0 = e.status.busy ∧ (statusWord e).getLsbD 1 = e.status.done ∧
      (statusWord e).getLsbD 2 = e.status.err ∧ (statusWord e).getLsbD 3 = e.status.ovr ∧
      (statusWord e).getLsbD 4 = e.status.matched ∧ (statusWord e).getLsbD 5 = e.hctx.isActive ∧
      (statusWord e).getLsbD 6 = e.chain.valid ∧ (statusWord e).getLsbD 7 = false := by
  have hreserved : (0#1 : BitVec 1) = bit false := rfl
  simp only [statusWord, hreserved, getLsbD_append_bit_zero, getLsbD_append_bit_succ, and_self]

/-- From bit 8 up STATUS shows ERRCODE, KEY_VALID and reserved bits (R26). -/
theorem statusWord_getLsbD_high (e : Engine) (i : Nat) :
    (statusWord e).getLsbD (8 + i) = (0#12 ++ keyValidBits e.ks ++ e.status.errcode).getLsbD i := by
  unfold statusWord
  iterate 8 rw [BitVec.getLsbD_append, if_neg (by omega)]
  congr 1
  omega

/-- ERRCODE is in bits 8 to 15, slot `k`'s valid bit is bit `16 + k`, and the bits above are 0 (R26). -/
theorem statusWord_fields (e : Engine) :
    (statusWord e).extractLsb' 8 8 = e.status.errcode ∧
      (∀ k : Fin 4, (statusWord e).getLsbD (16 + k) = e.ks[k].valid) ∧ (statusWord e).extractLsb' 20 12 = 0 := by
  refine ⟨?errcode, fun k => ?slots, ?reserved⟩
  case errcode =>
    refine BitVec.eq_of_getLsbD_eq fun i hi => ?_
    rw [BitVec.getLsbD_extractLsb', statusWord_getLsbD_high, BitVec.getLsbD_append, if_pos hi, decide_eq_true hi,
      Bool.true_and]
  case slots =>
    rw [show 16 + k.val = 8 + (8 + k.val) by omega, statusWord_getLsbD_high, BitVec.getLsbD_append, if_neg (by omega),
      BitVec.getLsbD_append, if_pos (by omega), Nat.add_sub_cancel_left, keyValidBits_getLsbD]
  case reserved =>
    refine BitVec.eq_of_getLsbD_eq fun i hi => ?_
    rw [BitVec.getLsbD_extractLsb', show 20 + i = 8 + (12 + i) by omega, statusWord_getLsbD_high,
      BitVec.getLsbD_append, if_neg (by omega), BitVec.getLsbD_append, if_neg (by omega)]
    simp

/-! ## CMD -/

/-- The write is accepted when `BUSY = 0` and `ERR = 0` (R29). -/
theorem writeCmd_of_idle {s : State} (hb : s.engine.status.busy = false) (he : s.engine.status.err = false) (w : Word) :
    writeCmd w s = s.acceptCommand w := by
  simp [writeCmd, hb, he]

/-- Otherwise it is dropped (R29, R317). -/
theorem writeCmd_of_not_idle {s : State} (h : s.engine.status.busy = true ∨ s.engine.status.err = true) (w : Word) :
    writeCmd w s = s.drop := by
  rw [writeCmd, if_pos (by simpa using h)]

/-! ## The scratch window while `BUSY = 1` -/

section
variable {s : State} {j : Nat} (h : s.resetHeld = false) (hb : s.engine.status.busy = true)
  (hj : 4 * j < s.params.scratchBytes)
include h hb hj

/-- While `BUSY = 1` a scratch write is dropped (R65). -/
theorem hostWrite_scratch_of_busy (v : Word) : hostWrite (0x1000 + 4 * j) v s = s.drop.respond .ack := by
  obtain ⟨hin, h4⟩ := scratchWindow_word hj
  rw [hostWrite_window h hin h4, writeWindow_scratch, writeScratch, if_pos hb]

/-- While `BUSY = 1` a scratch read answers the next free value (R66). -/
theorem hostRead_scratch_of_busy : hostRead (0x1000 + 4 * j) s =
    { s.respond (.data (Config.freeScratchRead s.readDraws)) with readDraws := s.readDraws + 1 } := by
  obtain ⟨hin, h4⟩ := scratchWindow_word hj
  rw [hostRead_window h hin h4, readWindow, if_neg (by simp [scratchWindow]), if_pos hb]

end

/-! ## Accesses the engine does not take -/

/-- An access outside the window is not routed (R61). -/
theorem busAccess_of_outside {a : Access} {s : State} (h : s.resetHeld = false)
    (ha : a.addr < s.params.engineBase ∨ s.params.engineBase + s.params.windowBytes ≤ a.addr) :
    busAccess a s = s.respond .notRouted := by
  have hout : s.inWindow a.addr = false := by
    simp only [State.inWindow, Bool.and_eq_false_iff, decide_eq_false_iff_not]
    omega
  simp only [busAccess, h, hout]
  rfl

/-- While the reset input is asserted no access is taken (R340). -/
theorem busAccess_of_held {a : Access} {s : State} (h : s.resetHeld = true) :
    busAccess a s = s.respond .notAccepted := if_pos h

/-! ## The decoder's header check -/

/-- On a first chunk of five bytes or more the decoder's first act is the header check (R272, R273). -/
theorem decFeed_start (pw : List (BitVec 16)) {chunk : Bytes} (s : State) {e : DecError} (hlen : 5 ≤ chunk.length)
    (he : headerCheck (chunk.take 5) = some e) : decFeed chunk (Decoder.start pw) s = decFail e s := by
  have hshort : ¬chunk.length < 5 := by omega
  have hrec : (Decoder.start pw).phase.Receiving := trivial
  rw [decFeed_of_receiving chunk s hrec]
  simp only [Decoder.start, List.nil_append, feedLoop, hshort, if_false, he]

/-- The header check sees the first four bytes of the chunk (R273). -/
theorem headerCheck_take (chunk : Bytes) : headerCheck (chunk.take 5) =
    if chunk.take 3 ≠ magic then some .badFormat
    else if chunk.getD 3 0 ≠ Config.formatVersion then some .unsupportedVersion
    else none := by
  have hmagic : slice (chunk.take 5) 0 3 = chunk.take 3 := by simp [slice, List.take_take]
  have hversion : (chunk.take 5).getD 3 0 = chunk.getD 3 0 := by simp [List.getD_eq_getElem?_getD]
  rw [headerCheck, hmagic, hversion]

end Sys2Proof.Machine

open Sys2Proof Sys2Proof.Machine

/-- Settles O39. -/
theorem statusShowsFlags : Obligations.StatusShowsFlags := by
  refine ⟨fun s hs => hostRead_reg_response .status hs, fun e => ?_⟩
  obtain ⟨hbusy, hdone, herr, hovr, hmatch, hactive, hiv, hres⟩ := statusWord_flags e
  obtain ⟨hcode, hslots, hhigh⟩ := statusWord_fields e
  exact ⟨hbusy, hdone, herr, hovr, hmatch, hactive ▸ e.hctx.isActive_iff, hiv, hres, hcode, hslots, hhigh⟩

/-- Settles O42: the two branches of a CMD write, and the completion of an illegal word. -/
theorem cmdWriteAcceptedOrDropped : Obligations.CmdWriteAcceptedOrDropped := by
  intro s w hs
  have hwrite : hostWrite 0x010 w s = (writeCmd w s).respond .ack := hostWrite_reg .cmd w hs
  refine ⟨hostRead_reg_response .cmd hs, fun hb he => ⟨?accepted, fun hillegal => ?illegal⟩, fun hbusy => ?dropped⟩
  case accepted => rw [hwrite, writeCmd_of_idle hb he]; rfl
  case illegal =>
    rw [hwrite, writeCmd_of_idle hb he]
    exact step_of_illegal rfl hillegal
  case dropped =>
    rw [hwrite, writeCmd_of_not_idle hbusy]
    exact ⟨rfl, rfl⟩

/-- Settles O48. -/
theorem scratchWindowWhileBusy : Obligations.ScratchWindowWhileBusy := by
  intro s v j hs hb hj
  rw [hostWrite_scratch_of_busy hs hb hj, hostRead_scratch_of_busy hs hb hj]
  exact ⟨rfl, rfl, rfl, rfl⟩

/-- Settles O49. -/
theorem unroutedAndHeldAccesses : Obligations.UnroutedAndHeldAccesses := fun _ _ =>
  ⟨fun hs ha => busAccess_of_outside hs ha, fun hs => busAccess_of_held hs⟩

/-- Settles O50: both resets put the engine into its reset state, whose flags are 0. -/
theorem resetErasesEverything : Obligations.ResetErasesEverything := by
  intro s t ht
  have he : t.engine = Engine.reset := by
    rcases ht with rfl | ⟨hs, v, hv, rfl⟩
    · exact resetInput_asserted_engine s
    · exact hostWrite_ctrl_reset hs hv
  have hdue : t.due = false := by rw [State.due, he]; rfl
  refine ⟨he, ?_, ?_, ?_, ?_, hdue⟩
  all_goals rw [he]; rfl

/-- Settles O58, by the two refusals of the header check. -/
theorem decoderChecksHeader : Obligations.DecoderChecksHeader := by
  intro pw chunk s hlen
  refine ⟨fun hmagic => ?badMagic, fun hmagic hversion => ?badVersion⟩
  case badMagic =>
    have he : headerCheck (chunk.take 5) = some .badFormat := by rw [headerCheck_take]; exact if_pos hmagic
    rw [decFeed_start pw s hlen he]
    exact ⟨rfl, rfl⟩
  case badVersion =>
    have he : headerCheck (chunk.take 5) = some .unsupportedVersion := by
      rw [headerCheck_take]
      exact (if_neg (not_not.2 hmagic)).trans (if_pos hversion)
    rw [decFeed_start pw s hlen he]
    exact ⟨rfl, rfl⟩

end

section
/-! Runs of the machine: a command in flight completes in time (70_reset_and_hazards.md R354), the host's WAIT and the
issue of a command line (30_encoding.md R98, R99), and the erasure of the engine by three commands (43_utility.md
R204). -/

namespace Sys2Proof.Machine

/-! ## A step that completes -/

/-- A completion changes the engine only, and leaves it idle (R37). -/
theorem completion_engine (s : State) :
    ∃ e : Engine, e.status.busy = false ∧ completion s = .next { s with engine := e } := by
  obtain ⟨i, _, _, h⟩ | ⟨c, h⟩ := completion_cases s
  · exact ⟨_, Engine.succeed_busy _, h⟩
  · exact ⟨_, Engine.cmdError_busy _ c, h⟩

theorem State.after_of_due {s : State} (h : s.due = true) :
    ∃ e : Engine, e.status.busy = false ∧ s.after = { s with engine := e } := by
  obtain ⟨e, he, hnext⟩ := completion_engine s
  exact ⟨e, he, by simp only [State.after, step_of_due h, hnext]⟩

theorem State.due_eq_false_of_idle {s : State} (h : s.engine.status.busy = false) : s.due = false := by
  simp only [State.due, h, Bool.false_and]

/-! ## A command in flight, and the host's events meanwhile -/

/-- `t` still has the command of `s` in flight, with the same latency left and the same events to come. -/
structure StillInFlight (s t : State) : Prop where
  params : t.params = s.params
  queue : t.queue = s.queue
  delay : t.delay = s.delay
  busy : t.engine.status.busy = true

theorem regAt_eq_ctrl {off : Nat} (h : regAt off = some .ctrl) : off = 0x008 := by
  unfold regAt at h
  split at h
  case h_3 => rfl
  all_goals cases h

section
variable {s : State} (hb : s.engine.status.busy = true)
include hb

theorem stillInFlight_drop : StillInFlight s s.drop := ⟨rfl, rfl, rfl, hb⟩

theorem stillInFlight_writeReg {r : Reg} {v : Word} (hv : r = .ctrl → v.getLsbD 31 = false) :
    StillInFlight s (writeReg r v s) := by
  cases r with
  | id | param => exact ⟨rfl, rfl, rfl, hb⟩
  | ctrl => rw [writeReg, writeCtrl_of_not_bit31 (hv rfl)]; exact ⟨rfl, rfl, rfl, hb⟩
  | status => exact ⟨rfl, rfl, rfl, by rw [writeReg, writeStatus_engine]; exact hb⟩
  | cmd => rw [writeReg, writeCmd_of_not_idle (.inl hb)]; exact stillInFlight_drop hb
  | src | dst | len | aux =>
    rw [writeReg_operand_of_busy (by decide) v hb]
    exact stillInFlight_drop hb

theorem stillInFlight_writeWindow {off : Nat} {v : Word} (hv : off = 0x008 → v.getLsbD 31 = false) :
    StillInFlight s (writeWindow off v s) := by
  obtain ⟨r, hr, hw⟩ | hw | ⟨_, hw⟩ := writeWindow_cases off v s <;> rw [hw]
  · exact stillInFlight_writeReg hb fun hctrl => hv (regAt_eq_ctrl (hctrl ▸ hr))
  · exact ⟨rfl, rfl, rfl, hb⟩
  · rw [writeScratch, if_pos hb]
    exact stillInFlight_drop hb

/-- No event but a reset ends a command in flight (R29, R31, R65, R340). -/
theorem stillInFlight_applyEvent {ev : Event} (hev : isReset s.params ev = false) :
    StillInFlight s (applyEvent ev s) := by
  cases ev with
  | idle => exact ⟨rfl, rfl, rfl, hb⟩
  | resetInput b =>
    obtain rfl : b = false := hev
    exact ⟨rfl, rfl, rfl, hb⟩
  | access a =>
    show StillInFlight s (busAccess a s)
    obtain ⟨r, hr⟩ | ⟨_, off, _, _, hread | ⟨v, rfl, hwrite⟩⟩ := busAccess_cases a s
    · rw [hr]; exact ⟨rfl, rfl, rfl, hb⟩
    · obtain ⟨r, hr⟩ := readWindow_eq off s
      rw [hread, hr]
      exact ⟨rfl, rfl, rfl, hb⟩
    · rw [hwrite]
      obtain ⟨hparams, hqueue, hdelay, hbusy⟩ : StillInFlight s (writeWindow off v s) := by
        refine stillInFlight_writeWindow hb fun hoff => ?_
        simpa [isReset, hoff] using hev
      exact ⟨hparams, hqueue, hdelay, hbusy⟩

/-- While the latency has not passed, a step without a reset takes one from it (R354). -/
theorem after_of_in_flight (hdelay : s.delay ≠ 0) (hq : ∀ ev ∈ s.queue, isReset s.params ev = false) :
    s.after.engine.status.busy = true ∧ s.after.delay = s.delay - 1 ∧
      ∀ ev ∈ s.after.queue, isReset s.after.params ev = false := by
  have hdue : s.due = false := by simp [State.due, hdelay]
  have htick : s.tick.delay = s.delay - 1 := by rw [State.tick_delay, if_pos hb]
  rw [State.after_of_not_due hdue, hostStep]
  cases hqueue : s.queue with
  | nil => exact ⟨by simpa using hb, htick, by simp [hqueue]⟩
  | cons ev rest =>
    have hb' : ({ s.tick with queue := rest } : State).engine.status.busy = true := by simpa using hb
    have hev : isReset ({ s.tick with queue := rest } : State).params ev = false := by
      simpa using hq ev (by simp [hqueue])
    obtain ⟨hparams, hrest, hleft, hbusy⟩ := stillInFlight_applyEvent hb' hev
    refine ⟨hbusy, hleft.trans htick, fun e he => ?_⟩
    have hmem : e ∈ rest := by rwa [hrest] at he
    rw [hparams]
    simpa using hq e (by simp [hqueue, hmem])

end

theorem runSteps_succ_after (n : Nat) (s : State) : runSteps (n + 1) s = (runSteps n s).after := by
  induction n generalizing s with
  | zero => rfl
  | succ n ih => rw [runSteps, ih, runSteps]

/-- The command is due when its latency has passed (R354). -/
theorem due_runSteps_delay {s : State} (hb : s.engine.status.busy = true)
    (hq : ∀ ev ∈ s.queue, isReset s.params ev = false) : (runSteps s.delay s).due = true := by
  generalize hn : s.delay = n
  induction n generalizing s with
  | zero => exact s.due_iff.2 ⟨hb, hn⟩
  | succ n ih =>
    obtain ⟨hb', hdelay, hq'⟩ := after_of_in_flight hb (by omega) hq
    exact ih hb' hq' (by omega)

/-! ## Host programs -/

/-- What a program does after a first part that ends well. -/
theorem HostProg.bind_of_ok {α β : Type} {p : HostProg α} {f : α → HostProg β} {s t : State} {a : α}
    (h : p s = .ok a t) : (p >>= f) s = f a t := by
  show EStateM.bind p f s = _
  rw [EStateM.bind, h]

/-- A served access meets the machine after the due completion, or after one step of latency (R70). -/
theorem serve_eq (a : Access) {s : State} (hq : s.queue = []) :
    ∃ u : State, serve a s = busAccess a u ∧ u.params = s.params ∧ u.resetHeld = s.resetHeld ∧ u.queue = [] ∧
      (u.engine.status.busy = true → s.engine.status.busy = true ∧ s.delay = u.delay + 1) := by
  cases hdue : s.due with
  | false =>
    refine ⟨{ s.tick with queue := [] }, serve_of_not_due a hq hdue, by simp, by simp, rfl, fun hb => ?_⟩
    have hb : s.engine.status.busy = true := by simpa using hb
    have hdelay : s.delay ≠ 0 := fun h0 => by simp [State.due, hb, h0] at hdue
    have htick : s.tick.delay = s.delay - 1 := by rw [State.tick_delay, if_pos hb]
    exact ⟨hb, by show s.delay = s.tick.delay + 1; omega⟩
  | true =>
    have hdue' : ({ s with queue := .access a :: s.queue } : State).due = true := hdue
    obtain ⟨e, he, hafter⟩ := State.after_of_due hdue'
    have hidle : ({ s with engine := e, queue := .access a :: s.queue } : State).due = false :=
      State.due_eq_false_of_idle he
    refine ⟨{ s with engine := e, queue := [] }, ?_, rfl, rfl, rfl, fun hb => by simp [he] at hb⟩
    rw [serve, if_pos hdue, hafter, State.after_of_not_due hidle, hostStep, State.tick, if_neg (by simp [he]), hq]
    rfl

/-- `R STATUS` answers the STATUS word, and a command in flight is one step nearer (R99). -/
theorem readStatus_eq {s : State} (hs : s.resetHeld = false) (hq : s.queue = []) :
    ∃ u : State, readStatus s = .ok (statusWord u.engine) (u.respond (.data (statusWord u.engine))) ∧
      u.resetHeld = false ∧ u.queue = [] ∧
      (u.engine.status.busy = true → s.engine.status.busy = true ∧ s.delay = u.delay + 1) := by
  obtain ⟨u, hserve, hparams, hheld, hqueue, hbusy⟩ :=
    serve_eq (.read .w32 (s.params.engineBase + Reg.status.offset)) hq
  have hread : serve (.read .w32 (s.params.engineBase + Reg.status.offset)) s =
      u.respond (.data (statusWord u.engine)) := by
    rw [hserve, ← hparams]
    exact hostRead_reg .status (hheld.trans hs)
  exact ⟨u, by simp only [readStatus, busRead, hread, State.respond_response], hheld.trans hs, hqueue, hbusy⟩

/-- More reads than steps of latency left end with an idle engine (R99, R354). -/
theorem final_waitLoop (n : Nat) {s : State} (hs : s.resetHeld = false) (hq : s.queue = [])
    (hn : s.engine.status.busy = true → s.delay < n) :
    (HostProg.final (waitLoop n) s).engine.status.busy = false ∧ (HostProg.final (waitLoop n) s).queue = [] := by
  induction n generalizing s with
  | zero => exact ⟨Bool.eq_false_iff.2 fun hb => absurd (hn hb) (Nat.not_lt_zero _), hq⟩
  | succ n ih =>
    obtain ⟨u, hread, hheld, hqueue, hnext⟩ := readStatus_eq hs hq
    have hbit : (statusWord u.engine).getLsbD 0 = u.engine.status.busy := (statusWord_flags u.engine).1
    rw [HostProg.final, EStateM.run, waitLoop, HostProg.bind_of_ok hread, hbit]
    cases hb : u.engine.status.busy with
    | false => exact ⟨hb, hqueue⟩
    | true =>
      obtain ⟨hsb, hdelay⟩ := hnext hb
      have hleft : u.delay < n := by have := hn hsb; omega
      exact ih (s := u.respond _) hheld hqueue fun _ => hleft

/-! ## Issuing a line -/

/-- A write to an operand register, as an update of the engine (R30). -/
def Reg.setOperand (r : Reg) (v : Word) (e : Engine) : Engine :=
  match r with
  | .src => { e with src := v }
  | .dst => { e with dst := v }
  | .len => { e with len := v }
  | .aux => { e with aux := v }
  | _ => e

/-- On an idle engine the register write of an operand is that update (R31). -/
theorem writeReg_operand_of_idle {r : Reg} (hr : r ∈ operandRegs) (v : Word) {s : State}
    (h : s.engine.status.busy = false) : writeReg r v s = { s with engine := r.setOperand v s.engine } := by
  fin_cases hr <;> simp only [writeReg, writeOperand_of_idle h, Reg.setOperand]

theorem Reg.setOperand_status (r : Reg) (v : Word) (e : Engine) : (r.setOperand v e).status = e.status := by
  cases r <;> rfl

/-- An engine released, idle and with no event waiting. -/
structure State.Quiet (s : State) : Prop where
  released : s.resetHeld = false
  queue : s.queue = []
  idle : s.engine.status.busy = false

/-- A quiet machine serves a register write at once (R70). -/
theorem State.Quiet.serve_write {s : State} (h : s.Quiet) (r : Reg) (v : Word) :
    serve (.write .w32 (s.params.engineBase + r.offset) v) s = (writeReg r v s).respond .ack := by
  have hsame : ({ s.tick with queue := [] } : State) = s := by
    rw [State.tick, if_neg (by simp [h.idle]), ← h.queue]
  rw [serve_of_not_due _ h.queue (State.due_eq_false_of_idle h.idle), hsame]
  exact hostWrite_reg r v h.released

/-- The machine after it has served register writes in order. -/
def serveWrites (ws : List (Reg × Word)) (s : State) : State :=
  ws.foldl (fun t rv => serve (.write .w32 (t.params.engineBase + rv.1.offset) rv.2) t) s

/-- Issuing a line is serving its writes (R98). -/
theorem final_issue (l : Line) (s : State) : HostProg.final (issue l) s = serveWrites l.writes s := by
  have hfold (ws : List (Reg × Word)) (p : HostProg Unit) (t : State) (hp : p s = .ok () t) :
      ws.foldl (fun p rv => do p; busWrite rv.1.offset rv.2) p s = .ok () (serveWrites ws t) := by
    induction ws generalizing p t with
    | nil => exact hp
    | cons rv ws ih => exact ih _ _ (HostProg.bind_of_ok hp)
  rw [HostProg.final, EStateM.run, issue, hfold l.writes (pure ()) s rfl]

/-- Operand writes on a quiet machine update the engine one after the other, and leave the machine quiet (R30). -/
theorem serveWrites_operands {ws : List (Reg × Word)} (hws : ∀ rv ∈ ws, rv.1 ∈ operandRegs) {s : State}
    (h : s.Quiet) : (serveWrites ws s).Quiet ∧
      (serveWrites ws s).engine = ws.foldl (fun e rv => rv.1.setOperand rv.2 e) s.engine := by
  induction ws generalizing s with
  | nil => exact ⟨h, rfl⟩
  | cons rv ws ih =>
    have hserve := h.serve_write rv.1 rv.2
    rw [writeReg_operand_of_idle (hws rv (List.mem_cons_self ..)) rv.2 h.idle] at hserve
    rw [serveWrites, List.foldl_cons, hserve]
    refine ih (fun x hx => hws x (List.mem_cons_of_mem _ hx)) ⟨h.released, h.queue, ?_⟩
    exact (congrArg Status.busy (Reg.setOperand_status _ _ _)).trans h.idle

/-- A line writes operand registers before CMD (R98). -/
theorem Line.operands_mem (l : Line) : ∀ rv ∈ l.operands, rv.1 ∈ operandRegs := by
  cases l <;> simp [Line.operands, operandRegs]

/-- The operand writes of a line touch no flag. -/
theorem foldl_setOperand_status (ws : List (Reg × Word)) (e : Engine) :
    (ws.foldl (fun e rv => rv.1.setOperand rv.2 e) e).status = e.status := by
  induction ws generalizing e with
  | nil => rfl
  | cons rv ws ih => rw [List.foldl_cons, ih, Reg.setOperand_status]

/-- A line issued on a quiet engine without error is accepted with its operands (R29, R98). -/
theorem issue_engine (l : Line) {s : State} (h : s.Quiet) (he : s.engine.status.err = false) :
    (HostProg.final (issue l) s).engine =
      (l.operands.foldl (fun e rv => rv.1.setOperand rv.2 e) s.engine).accept (encode l.instr) := by
  obtain ⟨hquiet, hengine⟩ := serveWrites_operands l.operands_mem h
  have herr : (serveWrites l.operands s).engine.status.err = false := by
    rw [hengine, foldl_setOperand_status, he]
  have hserve := hquiet.serve_write .cmd (encode l.instr)
  rw [writeReg, writeCmd_of_idle hquiet.idle herr] at hserve
  rw [final_issue, Line.writes, serveWrites, List.foldl_append, List.foldl_cons, List.foldl_nil]
  exact (congrArg State.engine hserve).trans (congrArg (Engine.accept · _) hengine)

/-! ## Erasing the engine -/

/-- Scratch reads 0 past its end. -/
theorem Memory.read_of_inside {m : Memory} {n a : Nat} (h : m.inside n = true) (ha : n ≤ a) : m.read a = 0 := by
  induction m with
  | nil => rfl
  | cons c m ih =>
    obtain ⟨hc, hm⟩ := List.forall_mem_cons.1 ((Memory.inside_iff n (c :: m)).1 h)
    rw [Memory.read_cons, if_neg (by omega)]
    exact ih ((Memory.inside_iff n m).2 hm)

/-- Zeros written over the whole scratch leave it as after reset (R41, R202). -/
theorem Memory.writeBytes_zeros {m : Memory} {n : Nat} (hwf : m.wf = true) (hin : m.inside n = true) :
    m.writeBytes 0 (zeros n) = [] := by
  refine Memory.ext_read (Memory.wf_writeBytes hwf _ _) rfl fun a => ?_
  rw [Memory.read_writeBytes hwf, Memory.read_nil]
  split
  next h => simp [zeros, rep]
  next h => exact Memory.read_of_inside hin (by simpa using h)

/-- A legal word latched with latency 0 has its effect in the next step if its checks pass (log entry 1). -/
theorem step_latchDue {s : State} {w : Word} {i : Instr} (hw : decodeWord w = .ok i)
    (hpass : ∀ x ∈ checks i (s.latchDue w), x.2 = true) :
    step (s.latchDue w) = .next { s.latchDue w with engine := (effect i (s.latchDue w)).succeed } := by
  have hdue : (s.latchDue w).due = true := rfl
  have hdecoded : decodeWord (s.latchDue w).engine.cur.word = .ok i := hw
  rw [step_of_due hdue, completion_of_decoded hdecoded]
  exact exec_of_passed ((firstError_eq_none_iff i _).2 hpass)

/-- An engine is in its reset state, but for CTRL, CMD, the operand registers and the flags, when its stores are. -/
theorem Engine.eq_reset_with {e : Engine} {st : Status} (hstatus : e.status = st)
    (hks : e.ks = Vector.replicate 4 KeySlot.cleared) (hchain : e.chain = Chain.cleared) (hctx : e.hctx = .none)
    (hscr : e.scr = []) (hcur : e.cur = Latched.none) :
    e = { Engine.reset with
      ctrl := e.ctrl, cmd := e.cmd, src := e.src, dst := e.dst, len := e.len, aux := e.aux, status := st } := by
  obtain ⟨ctrl, status, cmd, src, dst, len, aux, ks, chain, hctx', scr, cur⟩ := e
  subst hstatus hks hchain hctx hscr hcur
  rfl

/-- SCRATCH_BYTES fits LEN (R7). -/
theorem toNat_scratchBytes (p : Params) : (BitVec.ofNat 32 p.scratchBytes).toNat = p.scratchBytes := by
  have := p.scratchBytes_bounds.2
  rw [BitVec.toNat_ofNat, Nat.mod_eq_of_lt (by omega)]

end Sys2Proof.Machine

open Sys2Proof Sys2Proof.Machine

/-- Settles O51: each step without a reset takes one from the latency, and then the command completes. -/
theorem commandCompletesInTime : Obligations.CommandCompletesInTime := by
  refine ⟨fun s hb hq => ⟨due_runSteps_delay hb hq, ?_⟩, fun s w => drawLatency_le s w⟩
  obtain ⟨e, he, hafter⟩ := State.after_of_due (due_runSteps_delay hb hq)
  rw [runSteps_succ_after, hafter]
  exact he

/-- Settles O54: WAIT makes more reads than there are steps of latency left. -/
theorem waitEndsWithIdleEngine : Obligations.WaitEndsWithIdleEngine :=
  fun s hs hq => final_waitLoop (s.delay + 2) hs hq fun _ => by omega

/-- Settles O55: the operand writes take effect on the idle engine, and the CMD write latches what they left. -/
theorem issueLatchesLine : Obligations.IssueLatchesLine := by
  intro s l hs hq hb he t opnd
  have ht : t.engine = _ := issue_engine l ⟨hs, hq, hb⟩ he
  rw [ht]
  cases l <;> exact ⟨rfl, rfl, rfl, rfl, rfl, rfl, rfl⟩

/-- Settles O30: no check of the three commands fails, and their effects clear the slots, scratch, CHAIN and HCTX. -/
theorem eraseAllLeavesResetState : Obligations.EraseAllLeavesResetState := by
  intro s hinv hb he
  have hlen := toNat_scratchBytes s.params
  have hscr := Memory.writeBytes_zeros hinv.scrWf hinv.scrInside
  have hcode : s.engine.status.errcode = 0x00 :=
    not_not.1 fun hne => Bool.false_ne_true (he.symm.trans (hinv.errcode.1 hne))
  refine ⟨_, _, _, step_latchDue (i := .keyzeroAll) rfl (by simp [checks]),
    step_latchDue (i := .scrub) rfl (by simp [checks, hlen]),
    step_latchDue (i := .ctxclear) rfl (by simp [checks]),
    Engine.eq_reset_with ?flags ?slots rfl rfl ?scratch rfl⟩
  case flags => simp [effect, Engine.succeed, Engine.accept, Engine.reset, he, hcode]
  case slots => simp [effect]
  case scratch => simpa [effect, State.dstOff, State.lenCount, hlen] using hscr

end
